-- ==== Sys2Proof/Word.lean ====
section
/-! DEFINITION. The word types of the rack-manager RS485 bus core (00_scope.md rules R8 and R11). Every
value is unsigned; `+` and `-` on a field are modulo a power of two. -/

namespace Sys2Proof

/-- One byte of a frame, an ID, a register field of 8 bits. -/
abbrev Byte := BitVec 8

/-- One word of a host register interface (10_state.md rule R40). -/
abbrev Word := BitVec 32

/-- FRAME_LEN of rule R8. -/
def frameLen : Nat := 256

/-- PAYLOAD_MAX of rule R8: the bytes 3..254 of a frame. -/
def payloadMax : Nat := 252

/-- MASTER_ID of rule R8. -/
def masterId : Byte := 0x00

/-- BROADCAST_ID of rule R8. -/
def broadcastId : Byte := 0xFF

end Sys2Proof
end

