-- ==== Sys2Proof/Syntax.lean ====
section
/-! DEFINITION. The syntax of the core's instructions. The core is not a processor: its instructions are the
packet types on the wire, the host command words and the four framer operations (00_scope.md rule R4). `Instr`
has one constructor for every row of spec/opcode_table.json. -/

namespace Sys2Proof

/-- The 11 Packet-Types of 30_encoding.md rule R132, in the order of their codes 0x01..0x0B. -/
inductive PacketType where
  | initProbe | initProbeResponse | init | acknowledge | error | restart | configure | metrics
  | metricsResponse | configureOptions | configureOptionsResponse
deriving DecidableEq, Repr

/-- The typed fields of a packet (30_encoding.md rules R135..R139). The constructor names the type. -/
inductive Payload where
  | initProbe
  | initProbeResponse (status id : Byte)
  | init (id : Byte)
  | acknowledge
  | error (code : Byte)
  | restart
  | configure (data : List Byte)
  | metrics
  | metricsResponse (data : List Byte)
  | configureOptions
  | configureOptionsResponse (data : List Byte)
deriving DecidableEq, Repr

/-- A decoded packet: version, Receiver-ID, Packet-Type and the 252 body bytes (40_framer_crc.md rule R183). -/
structure Packet where
  version : Byte
  rid : Byte
  ptype : PacketType
  body : List Byte
deriving DecidableEq, Repr

/-- The four reasons of a failed decode, with their info (60_exceptions.md rule R362). -/
inductive DecodeError where
  /-- fewer than 256 bytes; the number of bytes received. -/
  | lengthMismatch (count : Nat)
  /-- byte 0 is not PROTOCOL_VERSION; the byte received. -/
  | versionMismatch (version : Byte)
  /-- byte 255 is not the CRC of bytes 0..254; the byte received. -/
  | checksumMismatch (crc : Byte)
  /-- the Packet-Type is unassigned; Receiver-ID and type byte. -/
  | unknownType (rid ptype : Byte)
deriving DecidableEq, Repr

/-- One constructor for each row of spec/opcode_table.json, in the table's order.

A packet type carries its Receiver-ID and its 252 body bytes as received: a malformed body is no decode error
(30_encoding.md rule R143). The table's rows for unassigned types and reserved OPCs match a group of codes each;
the constructor is named after the row's match value, and `low` holds the bits the row's mask leaves open.
A host command carries TARGET, LEN and RSVD of the command word (30_encoding.md rule R150). -/
inductive Instr where
  | initProbe (rid : Byte) (body : List Byte)
  | initProbeResponse (rid : Byte) (body : List Byte)
  | init (rid : Byte) (body : List Byte)
  | acknowledge (rid : Byte) (body : List Byte)
  | error (rid : Byte) (body : List Byte)
  | restart (rid : Byte) (body : List Byte)
  | configure (rid : Byte) (body : List Byte)
  | metrics (rid : Byte) (body : List Byte)
  | metricsResponse (rid : Byte) (body : List Byte)
  | configureOptions (rid : Byte) (body : List Byte)
  | configureOptionsResponse (rid : Byte) (body : List Byte)
  | unassigned00 (rid : Byte) (body : List Byte)
  | unassigned0C (low : BitVec 2) (rid : Byte) (body : List Byte)
  | unassigned10 (low : BitVec 4) (rid : Byte) (body : List Byte)
  | unassigned20 (low : BitVec 5) (rid : Byte) (body : List Byte)
  | unassigned40 (low : BitVec 6) (rid : Byte) (body : List Byte)
  | unassigned80 (low : BitVec 7) (rid : Byte) (body : List Byte)
  | cmdMetrics (target len rsvd : Byte)
  | cmdConfigure (target len rsvd : Byte)
  | cmdConfigOptions (target len rsvd : Byte)
  | cmdRestart (target len rsvd : Byte)
  | cmdProbe (target len rsvd : Byte)
  | cmdResetRegistry (target len rsvd : Byte)
  | reserved00 (target len rsvd : Byte)
  | reserved07 (target len rsvd : Byte)
  | reserved08 (low : BitVec 3) (target len rsvd : Byte)
  | reserved10 (low : BitVec 4) (target len rsvd : Byte)
  | reserved20 (low : BitVec 5) (target len rsvd : Byte)
  | reserved40 (low : BitVec 6) (target len rsvd : Byte)
  | reserved80 (low : BitVec 7) (target len rsvd : Byte)
  | crc8 (bytes : List Byte)
  | encode (rid : Byte) (payload : Payload)
  | decode (bytes : List Byte)
  | parse (ptype : PacketType) (body : List Byte)
deriving DecidableEq, Repr

/-- An operation of the framer called directly, as 95_test_vectors.md sections 2, 3, 4 and 6 call it. The four
operations have no encoding (30_encoding.md rule R153). -/
inductive FramerOp where
  | crc8 (bytes : List Byte)
  | encode (rid : Byte) (payload : Payload)
  | decode (bytes : List Byte)
  | parse (ptype : PacketType) (body : List Byte)
deriving DecidableEq, Repr

/-- The instruction a framer operation is. -/
def FramerOp.instr : FramerOp → Instr
  | .crc8 bytes => .crc8 bytes
  | .encode rid payload => .encode rid payload
  | .decode bytes => .decode bytes
  | .parse ptype body => .parse ptype body

end Sys2Proof
end

