-- ==== Sys2Proof/Config.lean ====
section
/-! DEFINITION. What an instance of the core fixes (the parameters of 00_scope.md rule R9), the events the
environment can produce (rule R14), and the values the spec leaves unspecified, as constants without a body. -/

namespace Sys2Proof

/-- The parameters of 00_scope.md rule R9 of ONE core. Each core of the bus holds its own, since a bus may be built
with unequal ones (60_exceptions.md rule R364, 95_test_vectors.md program P6). TX_BOUND, the tick period and the
line latency L (93_implementation_defined.md section 2) are the platform's and no core's: `Config.txBound` and
`Config.lineLatency` are the first and the last, and `Config.environment` brings the ticks. -/
structure Params where
  protocolVersion : Byte
  crcPoly : Byte
  crcInit : Byte
  crcXorout : Byte
  tTimeout : BitVec 32
  rRetries : Byte
  nslots : Nat
  tGap : BitVec 16
  tSettle : BitVec 16
deriving DecidableEq, Repr

/-- The ranges of rule R9. -/
abbrev Params.ok (p : Params) : Prop :=
  p.tTimeout ≠ 0 ∧ 1 ≤ p.nslots ∧ p.nslots ≤ 32 ∧ p.tGap ≠ 0

/-- The values of the column "vectors" of rule R9, with the CRC defaults of 40_framer_crc.md rule R171. DESIGN CHOICE
where the rule says OPEN (log entry 1): every statement about all states holds for every other value too. -/
def Params.vectors : Params where
  protocolVersion := 0x01
  crcPoly := 0x07
  crcInit := 0x00
  crcXorout := 0x00
  tTimeout := 100
  rRetries := 2
  nslots := 4
  tGap := 10
  tSettle := 0

/-- A node of the bus: the Controller, or the board in slot `k` (00_scope.md rule R14). -/
inductive Node where
  | controller
  | slot (k : Nat)
deriving DecidableEq, Repr

/-- The two dedicated lines of a slot (44_line_arbiter.md rule R340). -/
inductive LineName where
  | ready
  | sel
deriving DecidableEq, Repr

/-- One event of the environment. A core consumes `txDone`, `txError`, a byte (brought by `rxByte`, `deliver` or
`corrupt`), `memRead`, `memWrite` and `tick` (00_scope.md rule R14); `LineEdge`, `FrameReceived`, `FrameDecodeFailed` and
`Timeout` are emitted inside their steps. The others are what the bus medium (R16), the lines (44_line_arbiter.md rule
R343) and the reset inputs (70_reset_and_hazards.md rule R400) do. -/
inductive Event where
  /-- the Transport ends the transmission of `node` with success. -/
  | txDone (node : Node)
  /-- the Transport ends the transmission of `node` with `TransportError`. -/
  | txError (node : Node)
  /-- the Transport delivers byte `b` to `node` although no frame brings it: noise between frames, or any byte while
  transmissions overlap (20_memory.md rule R118 (d)). -/
  | rxByte (node : Node) (b : Byte)
  /-- the medium delivers to `node` the next byte of the frame that comes in, as it was sent (rule R118 (a)). -/
  | deliver (node : Node)
  /-- the medium delivers to `node` byte `b` in place of the next byte of the frame that comes in (rule R118 (c)). -/
  | corrupt (node : Node) (b : Byte)
  /-- the medium cuts the frame that comes in at `node` (rule R118 (b)). -/
  | cut (node : Node)
  /-- nothing more of an overlapped transmission comes in at `node` (rule R118 (d)). -/
  | noiseEnds (node : Node)
  /-- a host access (20_memory.md rule R101). -/
  | memRead (node : Node) (addr : BitVec 12) (size : Nat)
  | memWrite (node : Node) (addr : BitVec 12) (size : Nat) (v : Word)
  /-- the tick strobe: the tick source delivers `Tick` to every core (60_exceptions.md rule R385). -/
  | strobe
  /-- `Tick` at the core of `node`: of a strobe, or on its own, for another order of the cores (log entry 12). -/
  | tick (node : Node)
  /-- the oldest level driven on the line and not yet arrived reaches its other end. -/
  | lineArrives (line : LineName) (k : Nat)
  /-- the reset input of a core. -/
  | reset (node : Node)
  /-- a board with parameters `p` is inserted in the empty slot `k` (60_exceptions.md rule R382). -/
  | attach (k : Nat) (p : Params)
  /-- the board in slot `k` is removed. -/
  | detach (k : Nat)
  /-- a framer operation is called on the framer of `node`. -/
  | framer (node : Node) (op : FramerOp)
deriving DecidableEq, Repr

/-- What the environment does at instant `n` when no event is waiting: any simultaneous events at all (a free value,
log entry 3). -/
opaque Config.environment : Nat → List Event

/-- The bytes the spec leaves unspecified after a reset event: draw, position (a free value, log entry 5). -/
opaque Config.unspecifiedByte : Nat → Nat → Byte

/-- How much of a transmission that was given up still reaches a node (70_reset_and_hazards.md rule R403,
41_extension_fsm.md rule R234; a free value, log entry 6): draw, node number. -/
opaque Config.abandonedLength : Nat → Nat → Nat

/-- TX_BOUND of rule R9: the number of ticks within which the platform's Transport ends a transmission. OPEN, so an
argument without a value; no rule of a core reads it (log entry 12). -/
opaque Config.txBound : Nat

/-- L of 70_reset_and_hazards.md rule R416: the ticks of the receiving core by which it samples a level that was driven. A
parameter of the platform (93_implementation_defined.md section 2), so an argument without a value; no rule of a core reads
it (log entry 12). -/
opaque Config.lineLatency : Nat

end Sys2Proof
end

