-- ==== Sys2Proof/WellFormed.lean ====
section
/-! DEFINITION. Which terms of the syntax an encoding or an operand of the spec can be. -/

namespace Sys2Proof

/-- Assignable extension IDs, 0x01..0xFE (00_scope.md rule R8). -/
abbrev assignable (id : Byte) : Prop := id ≠ masterId ∧ id ≠ broadcastId

/-- The fields of a typed packet hold legal values (30_encoding.md rules R136, R137, R139). -/
def Payload.wellFormed : Payload → Bool
  | .init id => decide (assignable id)
  | .initProbeResponse status id =>
      decide ((status = 0x00 ∧ id = 0x00) ∨ (status = 0x01 ∧ assignable id))
  | .configure data => decide (data.length ≤ 251)
  | .metricsResponse data => decide (data.length ≤ 251)
  | .configureOptionsResponse data => decide (data.length ≤ 251)
  | .initProbe => true
  | .acknowledge => true
  | .error _ => true
  | .restart => true
  | .metrics => true
  | .configureOptions => true

/-- A frame carries 252 body bytes (30_encoding.md rule R130). -/
abbrev wellFormedBody (body : List Byte) : Bool := decide (body.length = payloadMax)

/-- An instruction an encoding or an operand of the spec can be: a frame has 252 body bytes, a command word has fields
of fixed width, `decode` is called on at most 256 bytes (40_framer_crc.md rule R183) and `parse` on 252 (rule R187). -/
def Instr.wellFormed : Instr → Bool
  | .initProbe _ body => wellFormedBody body
  | .initProbeResponse _ body => wellFormedBody body
  | .init _ body => wellFormedBody body
  | .acknowledge _ body => wellFormedBody body
  | .error _ body => wellFormedBody body
  | .restart _ body => wellFormedBody body
  | .configure _ body => wellFormedBody body
  | .metrics _ body => wellFormedBody body
  | .metricsResponse _ body => wellFormedBody body
  | .configureOptions _ body => wellFormedBody body
  | .configureOptionsResponse _ body => wellFormedBody body
  | .unassigned00 _ body => wellFormedBody body
  | .unassigned0C _ _ body => wellFormedBody body
  | .unassigned10 _ _ body => wellFormedBody body
  | .unassigned20 _ _ body => wellFormedBody body
  | .unassigned40 _ _ body => wellFormedBody body
  | .unassigned80 _ _ body => wellFormedBody body
  | .cmdMetrics _ _ _ => true
  | .cmdConfigure _ _ _ => true
  | .cmdConfigOptions _ _ _ => true
  | .cmdRestart _ _ _ => true
  | .cmdProbe _ _ _ => true
  | .cmdResetRegistry _ _ _ => true
  | .reserved00 _ _ _ => true
  | .reserved07 _ _ _ => true
  | .reserved08 _ _ _ _ => true
  | .reserved10 _ _ _ _ => true
  | .reserved20 _ _ _ _ => true
  | .reserved40 _ _ _ _ => true
  | .reserved80 _ _ _ _ => true
  | .crc8 _ => true
  | .encode _ _ => true
  | .decode bytes => decide (bytes.length ≤ frameLen)
  | .parse _ body => wellFormedBody body

/-- The instruction is a framer operation, which has no encoding (30_encoding.md rule R153). -/
def Instr.isFramerOp : Instr → Bool
  | .crc8 _ => true
  | .encode _ _ => true
  | .decode _ => true
  | .parse _ _ => true
  | .initProbe _ _ => false
  | .initProbeResponse _ _ => false
  | .init _ _ => false
  | .acknowledge _ _ => false
  | .error _ _ => false
  | .restart _ _ => false
  | .configure _ _ => false
  | .metrics _ _ => false
  | .metricsResponse _ _ => false
  | .configureOptions _ _ => false
  | .configureOptionsResponse _ _ => false
  | .unassigned00 _ _ => false
  | .unassigned0C _ _ _ => false
  | .unassigned10 _ _ _ => false
  | .unassigned20 _ _ _ => false
  | .unassigned40 _ _ _ => false
  | .unassigned80 _ _ _ => false
  | .cmdMetrics _ _ _ => false
  | .cmdConfigure _ _ _ => false
  | .cmdConfigOptions _ _ _ => false
  | .cmdRestart _ _ _ => false
  | .cmdProbe _ _ _ => false
  | .cmdResetRegistry _ _ _ => false
  | .reserved00 _ _ _ => false
  | .reserved07 _ _ _ => false
  | .reserved08 _ _ _ _ => false
  | .reserved10 _ _ _ _ => false
  | .reserved20 _ _ _ _ => false
  | .reserved40 _ _ _ _ => false
  | .reserved80 _ _ _ _ => false

end Sys2Proof
end

