-- ==== Sys2Proof/Decode.lean ====
section
/-! DEFINITION. The two encoded formats (30_encoding.md): the 256-byte frame with its CRC-8 and the 32-bit command
word. The framer's pure functions (40_framer_crc.md sections 1, 2, 5, 6), the decoder, which is total and rejects by
name, and after it the encoder. -/

namespace Sys2Proof

/-! ### CRC-8 (rule R170) -/

/-- One shift of the 8-bit CRC register (rule R170). -/
def crcShift (poly c : Byte) : Byte :=
  if c.msb then (c <<< 1) ^^^ poly else c <<< 1

/-- The CRC register after one byte: the exclusive or, then 8 shifts (rule R170). -/
def crcByte (poly c b : Byte) : Byte :=
  let shift := crcShift poly
  shift (shift (shift (shift (shift (shift (shift (shift (c ^^^ b))))))))

/-- The CRC register after the bytes, the first byte first. Its next value is `crcByte poly c b` (lemma
`crcBytes_cons`); the match on its number makes the kernel compute it before it goes on to the next byte. -/
def crcBytes (poly : Byte) : Byte → List Byte → Byte
  | c, [] => c
  | c, b :: bs =>
    match (crcByte poly c b).toNat with
    | 0 => crcBytes poly 0 bs
    | n + 1 => crcBytes poly (BitVec.ofNat 8 (n + 1)) bs

/-- `crc8(s)` of rule R170. -/
def crc8 (p : Params) (bytes : List Byte) : Byte :=
  crcBytes p.crcPoly p.crcInit bytes ^^^ p.crcXorout

/-! ### Packet-Type codes (30_encoding.md rule R132) -/

/-- The code of a Packet-Type. -/
def PacketType.code : PacketType → Byte
  | .initProbe => 0x01
  | .initProbeResponse => 0x02
  | .init => 0x03
  | .acknowledge => 0x04
  | .error => 0x05
  | .restart => 0x06
  | .configure => 0x07
  | .metrics => 0x08
  | .metricsResponse => 0x09
  | .configureOptions => 0x0A
  | .configureOptionsResponse => 0x0B

/-- The Packet-Type of a code; none for the unassigned codes of rule R133. -/
def PacketType.ofCode (t : Byte) : Option PacketType :=
  if t = 0x01 then some .initProbe
  else if t = 0x02 then some .initProbeResponse
  else if t = 0x03 then some .init
  else if t = 0x04 then some .acknowledge
  else if t = 0x05 then some .error
  else if t = 0x06 then some .restart
  else if t = 0x07 then some .configure
  else if t = 0x08 then some .metrics
  else if t = 0x09 then some .metricsResponse
  else if t = 0x0A then some .configureOptions
  else if t = 0x0B then some .configureOptionsResponse
  else none

/-- The Packet-Type a typed payload belongs to. -/
def Payload.ptype : Payload → PacketType
  | .initProbe => .initProbe
  | .initProbeResponse _ _ => .initProbeResponse
  | .init _ => .init
  | .acknowledge => .acknowledge
  | .error _ => .error
  | .restart => .restart
  | .configure _ => .configure
  | .metrics => .metrics
  | .metricsResponse _ => .metricsResponse
  | .configureOptions => .configureOptions
  | .configureOptionsResponse _ => .configureOptionsResponse

/-- The `data` of a blob payload; the other payloads have none. -/
def Payload.blobData : Payload → List Byte
  | .configure data => data
  | .metricsResponse data => data
  | .configureOptionsResponse data => data
  | .initProbe => []
  | .initProbeResponse _ _ => []
  | .init _ => []
  | .acknowledge => []
  | .error _ => []
  | .restart => []
  | .metrics => []
  | .configureOptions => []

/-! ### Encode (rules R174, R175) -/

/-- A blob payload: the length byte, then the data (30_encoding.md rule R139). -/
def blob (data : List Byte) : List Byte := BitVec.ofNat 8 data.length :: data

/-- `serialize(t, fields)` of rule R175. -/
def serialize : Payload → List Byte
  | .initProbe => []
  | .initProbeResponse status id => [status, if status = 0x01 then id else 0x00]
  | .init id => [id]
  | .acknowledge => []
  | .error code => [code]
  | .restart => []
  | .configure data => blob data
  | .metrics => []
  | .metricsResponse data => blob data
  | .configureOptions => []
  | .configureOptionsResponse data => blob data

/-- `n` bytes of 0x00 (00_scope.md rule R11). -/
def zeros (n : Nat) : List Byte := List.replicate n 0x00

/-- The frame with the given bytes 1, 2 and 3..254: byte 0 is PROTOCOL_VERSION and the last byte the CRC of the bytes
before it (30_encoding.md rule R130). -/
def frameBytes (p : Params) (rid ptype : Byte) (body : List Byte) : List Byte :=
  let f0 := p.protocolVersion :: rid :: ptype :: body
  f0 ++ [crc8 p f0]

/-- The zero-padded body of a serialized payload (30_encoding.md rule R134). -/
def padBody (payload : List Byte) : List Byte := payload ++ zeros (payloadMax - payload.length)

/-- `encode(p)` of rule R174: 256 bytes, or FormatError with the payload's length. -/
def encodePacket (p : Params) (rid : Byte) (payload : Payload) : Except Nat (List Byte) :=
  let pl := serialize payload
  if payloadMax < pl.length then .error pl.length
  else .ok (frameBytes p rid payload.ptype.code (padBody pl))

/-! ### Decode (rule R183) -/

/-- `decode(s)` of rule R183: the checks in the rule's order, the first failing one reported. -/
def decodePacket (p : Params) (s : List Byte) : Except DecodeError Packet :=
  if s.length < frameLen then .error (.lengthMismatch s.length)
  else if s.getD 0 0 ≠ p.protocolVersion then .error (.versionMismatch (s.getD 0 0))
  else if crc8 p (s.take 255) ≠ s.getD 255 0 then .error (.checksumMismatch (s.getD 255 0))
  else match PacketType.ofCode (s.getD 2 0) with
    | none => .error (.unknownType (s.getD 1 0) (s.getD 2 0))
    | some t => .ok { version := s.getD 0 0, rid := s.getD 1 0, ptype := t, body := (s.drop 3).take payloadMax }

/-- The reason code of `FrameDecodeFailed` (60_exceptions.md rule R362). -/
def DecodeError.code : DecodeError → Byte
  | .lengthMismatch _ => 1
  | .versionMismatch _ => 2
  | .checksumMismatch _ => 3
  | .unknownType _ _ => 4

/-- The `info` of `FrameDecodeFailed`: a number, or the pair (byte 1, byte 2) (rule R362). -/
def DecodeError.info : DecodeError → Nat ⊕ Byte × Byte
  | .lengthMismatch count => .inl count
  | .versionMismatch version => .inl version.toNat
  | .checksumMismatch crc => .inl crc.toNat
  | .unknownType rid ptype => .inr (rid, ptype)

/-! ### Parse (rule R187) -/

/-- Every byte from position `n` on is 0x00. -/
def paddedFrom (n : Nat) (body : List Byte) : Bool := (body.drop n).all (· = 0x00)

/-- The data of a blob body: none when `len` is above 251 or the padding is not zero (rule R187). -/
def parseBlob (body : List Byte) : Option (List Byte) :=
  let len := (body.getD 0 0).toNat
  if 251 < len then none
  else if paddedFrom (1 + len) body then some ((body.drop 1).take len)
  else none

/-- `parse(t, body)` of rule R187; none is Malformed. -/
def parse (t : PacketType) (body : List Byte) : Option Payload :=
  match t with
  | .initProbe => if paddedFrom 0 body then some .initProbe else none
  | .acknowledge => if paddedFrom 0 body then some .acknowledge else none
  | .restart => if paddedFrom 0 body then some .restart else none
  | .metrics => if paddedFrom 0 body then some .metrics else none
  | .configureOptions => if paddedFrom 0 body then some .configureOptions else none
  | .init =>
      if body.getD 0 0 = 0x00 ∨ body.getD 0 0 = 0xFF then none
      else if paddedFrom 1 body then some (.init (body.getD 0 0))
      else none
  | .initProbeResponse =>
      if body.getD 0 0 = 0x00 then
        if paddedFrom 2 body then some (.initProbeResponse 0x00 0x00) else none
      else if body.getD 0 0 = 0x01 then
        if body.getD 1 0 = 0x00 ∨ body.getD 1 0 = 0xFF then none
        else if paddedFrom 2 body then some (.initProbeResponse 0x01 (body.getD 1 0))
        else none
      else none
  | .error => if paddedFrom 1 body then some (.error (body.getD 0 0)) else none
  | .configure => (parseBlob body).map .configure
  | .metricsResponse => (parseBlob body).map .metricsResponse
  | .configureOptionsResponse => (parseBlob body).map .configureOptionsResponse

/-! ### The decoder of instructions -/

/-- The instruction of a decoded packet. -/
def packetInstr (t : PacketType) (rid : Byte) (body : List Byte) : Instr :=
  match t with
  | .initProbe => .initProbe rid body
  | .initProbeResponse => .initProbeResponse rid body
  | .init => .init rid body
  | .acknowledge => .acknowledge rid body
  | .error => .error rid body
  | .restart => .restart rid body
  | .configure => .configure rid body
  | .metrics => .metrics rid body
  | .metricsResponse => .metricsResponse rid body
  | .configureOptions => .configureOptions rid body
  | .configureOptionsResponse => .configureOptionsResponse rid body

/-- The instruction of an unassigned type code (30_encoding.md rule R133), by the table's match and mask. -/
def unassignedInstr (t rid : Byte) (body : List Byte) : Instr :=
  if t = 0x00 then .unassigned00 rid body
  else if t.extractLsb' 2 6 = 0b000011 then .unassigned0C (t.setWidth 2) rid body
  else if t.extractLsb' 4 4 = 0b0001 then .unassigned10 (t.setWidth 4) rid body
  else if t.extractLsb' 5 3 = 0b001 then .unassigned20 (t.setWidth 5) rid body
  else if t.extractLsb' 6 2 = 0b01 then .unassigned40 (t.setWidth 6) rid body
  else .unassigned80 (t.setWidth 7) rid body

/-- The instruction in a received frame: rule R183, where a frame that fails only with UnknownType is the table's
UNASSIGNED_TYPE (its handling is 41_extension_fsm.md rule R213). The other errors reject the frame by name. -/
def decodeFrame (p : Params) (s : List Byte) : Except DecodeError Instr :=
  match decodePacket p s with
  | .ok packet => .ok (packetInstr packet.ptype packet.rid packet.body)
  | .error (.unknownType rid t) => .ok (unassignedInstr t rid ((s.drop 3).take payloadMax))
  | .error e => .error e

/-- OPC, bits [7:0] of a command word (30_encoding.md rule R150). -/
def opcOf (w : Word) : Byte := w.extractLsb' 0 8

/-- TARGET, bits [15:8] of a command word (rule R150). -/
def targetOf (w : Word) : Byte := w.extractLsb' 8 8

/-- LEN, bits [23:16] of a command word (rule R150). -/
def lenOf (w : Word) : Byte := w.extractLsb' 16 8

/-- RSVD, bits [31:24] of a command word (rule R150). -/
def rsvdOf (w : Word) : Byte := w.extractLsb' 24 8

/-- The command in a command word (rules R150..R152): every word is a command, by the table's match and mask. -/
def decodeCommand (w : Word) : Instr :=
  let opc := opcOf w
  if opc = 0x00 then .reserved00 (targetOf w) (lenOf w) (rsvdOf w)
  else if opc = 0x01 then .cmdMetrics (targetOf w) (lenOf w) (rsvdOf w)
  else if opc = 0x02 then .cmdConfigure (targetOf w) (lenOf w) (rsvdOf w)
  else if opc = 0x03 then .cmdConfigOptions (targetOf w) (lenOf w) (rsvdOf w)
  else if opc = 0x04 then .cmdRestart (targetOf w) (lenOf w) (rsvdOf w)
  else if opc = 0x05 then .cmdProbe (targetOf w) (lenOf w) (rsvdOf w)
  else if opc = 0x06 then .cmdResetRegistry (targetOf w) (lenOf w) (rsvdOf w)
  else if opc = 0x07 then .reserved07 (targetOf w) (lenOf w) (rsvdOf w)
  else if opc.extractLsb' 3 5 = 0b00001 then .reserved08 (opc.setWidth 3) (targetOf w) (lenOf w) (rsvdOf w)
  else if opc.extractLsb' 4 4 = 0b0001 then .reserved10 (opc.setWidth 4) (targetOf w) (lenOf w) (rsvdOf w)
  else if opc.extractLsb' 5 3 = 0b001 then .reserved20 (opc.setWidth 5) (targetOf w) (lenOf w) (rsvdOf w)
  else if opc.extractLsb' 6 2 = 0b01 then .reserved40 (opc.setWidth 6) (targetOf w) (lenOf w) (rsvdOf w)
  else .reserved80 (opc.setWidth 7) (targetOf w) (lenOf w) (rsvdOf w)

/-- The two encoded formats of 30_encoding.md. -/
inductive Code where
  | frame (bytes : List Byte)
  | command (w : Word)
deriving DecidableEq, Repr

/-- The decoder: total on any bytes and any word. -/
def decode (p : Params) : Code → Except DecodeError Instr
  | .frame bytes => decodeFrame p bytes
  | .command w => .ok (decodeCommand w)

/-! ### The encoder -/

/-- The command word with the given fields (rule R150). -/
def commandWord (opc target len rsvd : Byte) : Word := rsvd ++ len ++ target ++ opc

/-- The encoding of an instruction; none for the framer operations, which have none (30_encoding.md rule R153). -/
def encode (p : Params) : Instr → Option Code
  | .initProbe rid body => some (.frame (frameBytes p rid 0x01 body))
  | .initProbeResponse rid body => some (.frame (frameBytes p rid 0x02 body))
  | .init rid body => some (.frame (frameBytes p rid 0x03 body))
  | .acknowledge rid body => some (.frame (frameBytes p rid 0x04 body))
  | .error rid body => some (.frame (frameBytes p rid 0x05 body))
  | .restart rid body => some (.frame (frameBytes p rid 0x06 body))
  | .configure rid body => some (.frame (frameBytes p rid 0x07 body))
  | .metrics rid body => some (.frame (frameBytes p rid 0x08 body))
  | .metricsResponse rid body => some (.frame (frameBytes p rid 0x09 body))
  | .configureOptions rid body => some (.frame (frameBytes p rid 0x0A body))
  | .configureOptionsResponse rid body => some (.frame (frameBytes p rid 0x0B body))
  | .unassigned00 rid body => some (.frame (frameBytes p rid 0x00 body))
  | .unassigned0C low rid body => some (.frame (frameBytes p rid (0b000011#6 ++ low) body))
  | .unassigned10 low rid body => some (.frame (frameBytes p rid (0b0001#4 ++ low) body))
  | .unassigned20 low rid body => some (.frame (frameBytes p rid (0b001#3 ++ low) body))
  | .unassigned40 low rid body => some (.frame (frameBytes p rid (0b01#2 ++ low) body))
  | .unassigned80 low rid body => some (.frame (frameBytes p rid (0b1#1 ++ low) body))
  | .cmdMetrics target len rsvd => some (.command (commandWord 0x01 target len rsvd))
  | .cmdConfigure target len rsvd => some (.command (commandWord 0x02 target len rsvd))
  | .cmdConfigOptions target len rsvd => some (.command (commandWord 0x03 target len rsvd))
  | .cmdRestart target len rsvd => some (.command (commandWord 0x04 target len rsvd))
  | .cmdProbe target len rsvd => some (.command (commandWord 0x05 target len rsvd))
  | .cmdResetRegistry target len rsvd => some (.command (commandWord 0x06 target len rsvd))
  | .reserved00 target len rsvd => some (.command (commandWord 0x00 target len rsvd))
  | .reserved07 target len rsvd => some (.command (commandWord 0x07 target len rsvd))
  | .reserved08 low target len rsvd => some (.command (commandWord (0b00001#5 ++ low) target len rsvd))
  | .reserved10 low target len rsvd => some (.command (commandWord (0b0001#4 ++ low) target len rsvd))
  | .reserved20 low target len rsvd => some (.command (commandWord (0b001#3 ++ low) target len rsvd))
  | .reserved40 low target len rsvd => some (.command (commandWord (0b01#2 ++ low) target len rsvd))
  | .reserved80 low target len rsvd => some (.command (commandWord (0b1#1 ++ low) target len rsvd))
  | .crc8 _ => none
  | .encode _ _ => none
  | .decode _ => none
  | .parse _ _ => none

/-! ### The opcode table's words -/

/-- What stands for a word of the opcode table: a row of format `frame` gives the 8 bits of the Packet-Type byte, a row
of format `cmd` the 32 bits of the command word. The frame of a type byte is the one with Receiver-ID 0x00, a body of
zeros, and the version byte and CRC that the rest of the frame asks for (log entry 9). -/
def tableCode (p : Params) (nbits w : Nat) : Code :=
  if nbits ≤ 8 then .frame (frameBytes p 0x00 (BitVec.ofNat 8 w) (zeros payloadMax))
  else .command (BitVec.ofNat 32 w)

/-- The instruction the decoder reads from a word of the opcode table. -/
def decodeTableWord (nbits w : Nat) : Option Instr :=
  match decode Params.vectors (tableCode Params.vectors nbits w) with
  | .ok i => some i
  | .error _ => none

end Sys2Proof
end

