-- ==== Sys2Proof/Machine/State.lean ====
section
/-! DEFINITION. The state of the machine: one Controller core, the slots with their boards (each an Extension core),
the lines of each slot, the bus medium, and the environment's waiting events (00_scope.md rule R14). Plain data. -/

namespace Sys2Proof.Machine

/-! ### Why a step can stop -/

/-- No constructor: no condition stops either core (60_exceptions.md rule R364). Every error of the spec is an event, a
recorded result or an Error frame (rule R360), and an access error is the reply to a host access (20_memory.md rule
R101). Safe: nothing is stopped that the spec lets go on. -/
inductive Fault where
deriving DecidableEq, Repr

/-- Why the model gives an instruction no meaning. -/
inductive Refusal where
  /-- `exec` answers it for an instruction that has no meaning yet; safe, since the run stops. No arm does. -/
  | notModelled (mnemonic : String)
deriving DecidableEq, Repr

/-! ### Memory -/

/-- Bytes by address, sparse: an address that is not listed reads as 0x00 (`Memory.read`). -/
abbrev Memory := List Host.Cell

/-- The canonical form: addresses strictly rising, and no entry equal to what an unlisted address reads as. -/
abbrev Memory.wf (m : Memory) : Prop :=
  m.Pairwise (fun c d => c.1 < d.1) ∧ ∀ c ∈ m, c.2 ≠ (0x00 : Byte)

/-! ### The framer -/

/-- The framer state of a core (10_state.md rule R38). -/
structure Framer where
  /-- `rx_buf`: the 256 bytes of the frame being received, by position. -/
  rxBuf : Memory
  rxCount : BitVec 8
  gapCount : BitVec 16
  txBusy : Bool
  /-- The MODEL's own: the frame handed to the Transport by `Send` in the step in progress (40_framer_crc.md rule R177).
  At the end of the step the bus takes it over. -/
  outbox : Option (List Byte)
deriving DecidableEq, Repr

/-! ### The Controller core -/

/-- `CST` (10_state.md rule R31). -/
inductive CState where
  | idle | regSettle | regTx | regWait | cmdSettle | cmdTx | cmdWait
deriving DecidableEq, Repr

/-- `rec_status` (10_state.md rule R36). -/
inductive RecStatus where
  | absent | unregistered | registering | registered | unresponsive
deriving DecidableEq, Repr

/-- An entry of the Extension Registry: `rec_status[i]` and `rec_last[i]` (10_state.md rule R36). -/
structure Record where
  status : RecStatus
  last : BitVec 32
deriving DecidableEq, Repr

/-- The RESULT codes (60_exceptions.md rule R361). -/
inductive ResultCode where
  | ok | rejected | unresponsive | noSuchExtension | notRegistered | formatError | badCommand | badTarget
  | transportError
deriving DecidableEq, Repr

/-- KIND of REG_EVENT (10_state.md rule R45). -/
inductive RegKind where
  | none | registered | failed | idExhausted
deriving DecidableEq, Repr

/-- REG_EVENT (10_state.md rule R45). -/
structure RegEvent where
  kind : RegKind
  slot : Byte
  id : Byte
deriving DecidableEq, Repr

/-- The Controller core (10_state.md sections 2 and 3). -/
structure Controller where
  params : Params
  cst : CState
  curSlot : BitVec 5
  curId : Byte
  attempts : BitVec 9
  curCmd : Word
  expType : Byte
  txFrame : List Byte
  settleCount : BitVec 16
  timerArmed : Bool
  timerCount : BitVec 32
  now : BitVec 32
  /-- bit k is `ready_sync[k]`; so for the next three (rule R35). -/
  readySync : BitVec 32
  readyPrev : BitVec 32
  pending : BitVec 32
  selOut : BitVec 32
  registry : Vector Record 256
  nextId : Byte
  framer : Framer
  cmdValid : Bool
  cmdLatched : Word
  /-- the CMD register (rule R43). -/
  cmd : Word
  /-- the W1C flags of STATUS, bits 1 to 4 (rule R44). -/
  done : Bool
  regEvt : Bool
  evtOvf : Bool
  cmdDropped : Bool
  result : ResultCode
  respLen : Byte
  respInfo : Byte
  regEvent : RegEvent
  /-- IRQ_EN, bits 4 to 1 (rule R46). -/
  irqEn : BitVec 4
  /-- TXBUF and RXBUF, by host offset 0x100..0x2FF (rules R54, R55). -/
  mem : Memory
deriving DecidableEq, Repr

/-! ### The Extension core -/

/-- `EST` (10_state.md rule R57). -/
inductive EState where
  | uninitialized | selected | registered
deriving DecidableEq, Repr

/-- The Extension core (10_state.md sections 4 and 5). -/
structure Extension where
  params : Params
  est : EState
  extId : Byte
  readyOut : Bool
  selSync : Bool
  selPrev : Bool
  framer : Framer
  /-- EVENTS, bits 3 to 0 (rule R62). -/
  events : BitVec 4
  /-- IRQ_EN, bits 3 to 0 (rule R63). -/
  irqEn : BitVec 4
  metricsLen : Byte
  optionsLen : Byte
  configLen : Byte
  /-- METRICS_BUF, OPTIONS_BUF and CONFIG_BUF, by host offset 0x100..0x3FF (rule R67). -/
  mem : Memory
deriving DecidableEq, Repr

/-! ### The bus -/

/-- One line: the level at the receiving end, and the levels driven since that have not arrived there yet, the oldest
first (44_line_arbiter.md rules R341, R343). -/
structure Line where
  level : Bool
  inFlight : List Bool
deriving DecidableEq, Repr

/-- What the channel makes of a transmission at one receiver (20_memory.md rule R118). -/
inductive Carriage where
  /-- (a): every byte so far as it was sent. -/
  | intact
  /-- (c): some byte so far was changed. -/
  | damaged
  /-- (b): it ends after the bytes that are left, and then `quiet` ticks of the receiver pass in silence. -/
  | cut (quiet : Nat)
  /-- (d): transmissions overlapped, and the receiver gets any bytes. -/
  | garbled
deriving DecidableEq, Repr

/-- A transmission on its way to one receiver. -/
structure Transmission where
  sender : Node
  /-- the bytes not yet delivered, the oldest first. -/
  bytes : List Byte
  carriage : Carriage
  /-- the sender's Transport is done with it: `TxDone`, `TxError`, or abandoned. -/
  ended : Bool
deriving DecidableEq, Repr

/-- The transmissions on their way to one receiver, the oldest first. -/
abbrev Wire := List Transmission

/-- A slot: the board in it, if any, its two lines, and the transmissions on their way to the board. -/
structure Slot where
  board : Option Extension
  ready : Line
  sel : Line
  wire : Wire
deriving DecidableEq, Repr

/-- The reply to a host access (20_memory.md rule R101). -/
structure HostReply where
  error : Bool
  data : Word
deriving DecidableEq, Repr

/-- What a framer operation returned (40_framer_crc.md rules R170, R174, R183, R187). -/
inductive FramerResult where
  | crc (c : Byte)
  | frame (bytes : List Byte)
  | formatError (len : Nat)
  | packet (p : Packet)
  | decodeError (e : DecodeError)
  | fields (f : Payload)
  | malformed
deriving DecidableEq, Repr

/-- The whole bus. `active` and the fields after it are the MODEL's own. -/
structure State where
  ctrl : Controller
  slots : List Slot
  /-- the transmissions on their way to the Controller. -/
  ctrlWire : Wire
  /-- the node whose step is in progress. -/
  active : Node
  /-- the waiting events, instant by instant; those of one instant are simultaneous. -/
  inputs : List (List Event)
  /-- how many instants were taken from `Config.environment`. -/
  instant : Nat
  /-- how many draws of unspecified values were made. -/
  draws : Nat
  /-- the last reply to a host access. -/
  reply : HostReply
  /-- what the last framer operation that was called directly returned. -/
  framerResult : Option FramerResult
  /-- the nodes whose transmission is on the line: begun, not ended by its Transport, and received whole by no node. -/
  onLine : List Node
deriving DecidableEq, Repr

/-! ### Reset -/

/-- The framer after reset (rule R38); `rx` is what `rx_buf` holds, which the rule leaves unspecified. -/
def Framer.reset (rx : Memory) : Framer where
  rxBuf := rx
  rxCount := 0
  gapCount := 0
  txBusy := false
  outbox := none

/-- The Controller after the reset step of 70_reset_and_hazards.md rule R401, before its `arbitrate()`: `ready` is the
sampled level of the Ready-Lines, and `rx`, `tx` and `mem` are what `rx_buf`, `tx_frame`, TXBUF and RXBUF hold, which
the rule leaves unspecified. -/
def Controller.reset (p : Params) (ready : BitVec 32) (rx : Memory) (tx : List Byte) (mem : Memory) : Controller where
  params := p
  cst := .idle
  curSlot := 0
  curId := 0x00
  attempts := 0
  curCmd := 0
  expType := 0x00
  txFrame := tx
  settleCount := 0
  timerArmed := false
  timerCount := 0
  now := 0
  readySync := ready
  readyPrev := 0
  pending := ready
  selOut := 0
  registry := Vector.replicate 256 { status := .absent, last := 0 }
  nextId := 0x01
  framer := Framer.reset rx
  cmdValid := false
  cmdLatched := 0
  cmd := 0x00000000
  done := false
  regEvt := false
  evtOvf := false
  cmdDropped := false
  result := .ok
  respLen := 0x00
  respInfo := 0x00
  regEvent := { kind := .none, slot := 0, id := 0 }
  irqEn := 0
  mem := mem

/-- The Extension after the reset step of 70_reset_and_hazards.md rule R402: `sel` is the sampled level of the
Selection-Line, to which 41_extension_fsm.md rule R211 is applied. -/
def Extension.reset (p : Params) (sel : Bool) (rx mem : Memory) : Extension where
  params := p
  est := if sel then .selected else .uninitialized
  extId := 0x00
  readyOut := true
  selSync := sel
  selPrev := false
  framer := Framer.reset rx
  events := 0
  irqEn := 0
  metricsLen := 0x00
  optionsLen := 0x00
  configLen := 0x00
  mem := mem

/-- A slot whose board was just reset, with nothing on its wires but the rising Ready-Line (log entry 2). -/
def Slot.reset (p : Params) : Slot where
  board := some (Extension.reset p false [] [])
  ready := { level := false, inFlight := [true] }
  sel := { level := false, inFlight := [] }
  wire := []

/-- The bus with parameters `p` right after the reset of every core: a board in each of the slots 0..NSLOTS−1, every
line sampled low, no event waiting. -/
def State.resetWith (p : Params) : State where
  ctrl := Controller.reset p 0 [] (List.replicate 256 0x00) []
  slots := List.replicate p.nslots (Slot.reset p)
  ctrlWire := []
  active := .controller
  inputs := []
  instant := 0
  draws := 0
  reply := { error := false, data := 0 }
  framerResult := none
  onLine := []

/-- The machine right after reset, with the parameters of 95_test_vectors.md section 0 (log entry 1). -/
def State.reset : State := State.resetWith Params.vectors

end Sys2Proof.Machine
end

