-- ==== Sys2Proof/Machine/Ops.lean ====
section
/-! DEFINITION. The named operations over memory, the registers of the cores and the bus. The trap analogue of
60_exceptions.md section 2 is here as shared operations: taking it is `Controller.complete`,
`Controller.recordRegEvent` and `Extension.raiseEvents` (rule R366), returning from it `Controller.acknowledge` and
`Extension.acknowledge` (rule R367). -/

namespace Sys2Proof.Machine

/-! ### Memory -/

/-- The byte at an address; an address that is not listed reads as 0x00 (log entry 4). -/
def Memory.read : Memory → Nat → Byte
  | [], _ => 0x00
  | c :: m, a => if c.1 = a then c.2 else Memory.read m a

/-- The list with the entry `(a, b)`, in place of an older one. -/
def Memory.insert : Memory → Nat → Byte → Memory
  | [], a, b => [(a, b)]
  | c :: m, a, b =>
      if a < c.1 then (a, b) :: c :: m
      else if c.1 = a then (a, b) :: m
      else c :: Memory.insert m a b

/-- The list without an entry at `a`. -/
def Memory.erase (m : Memory) (a : Nat) : Memory := m.filter (fun c => c.1 ≠ a)

/-- Writes one byte; the value an unlisted address reads as removes the entry. -/
def Memory.write (m : Memory) (a : Nat) (b : Byte) : Memory :=
  if b = 0x00 then Memory.erase m a else Memory.insert m a b

/-- Writes bytes at `a`, `a + 1`, ... -/
def Memory.writeBytes : Memory → Nat → List Byte → Memory
  | m, _, [] => m
  | m, a, b :: bs => Memory.writeBytes (Memory.write m a b) (a + 1) bs

/-- The `n` bytes at `a`, `a + 1`, ... -/
def Memory.readBytes : Memory → Nat → Nat → List Byte
  | _, _, 0 => []
  | m, a, n + 1 => Memory.read m a :: Memory.readBytes m (a + 1) n

/-- The little-endian word at `a` (20_memory.md rule R102). -/
def Memory.readWord (m : Memory) (a : Nat) : Word :=
  Memory.read m (a + 3) ++ Memory.read m (a + 2) ++ Memory.read m (a + 1) ++ Memory.read m a

/-- The four bytes of a word, least significant first (rule R102). -/
def wordBytes (v : Word) : List Byte :=
  [v.extractLsb' 0 8, v.extractLsb' 8 8, v.extractLsb' 16 8, v.extractLsb' 24 8]

/-! ### Bits -/

/-- `v` with bit `k` set to `b`; a bit above 31 changes nothing. -/
def setBit (v : BitVec 32) (k : Nat) (b : Bool) : BitVec 32 :=
  if b then v ||| (1#32 <<< k) else v &&& ~~~(1#32 <<< k)

/-- Bits 0..n−1 set. -/
def lowMask (n : Nat) : BitVec 32 := BitVec.allOnes 32 >>> (32 - n)

/-- The word whose bit `k` is the `k`-th level of the list. -/
def levelBits : Nat → List Bool → BitVec 32
  | _, [] => 0
  | k, b :: bs => setBit (levelBits (k + 1) bs) k b

/-! ### The framer's transmit and receive logic (40_framer_crc.md sections 3 and 4) -/

/-- `Send(f)` of rule R177. -/
def Framer.send (fr : Framer) (f : List Byte) : Framer :=
  { fr with txBusy := true, rxCount := 0, gapCount := 0, outbox := some f }

/-- `TxDone` or `TxError`: the transmission has ended (rule R177). -/
def Framer.endSend (fr : Framer) : Framer := { fr with txBusy := false }

/-- `RxByte(b)` of rules R178 and R181: the framer after it, and the frame it delivers if `b` was its last byte. -/
def Framer.rxByte (fr : Framer) (b : Byte) : Framer × Option (List Byte) :=
  if fr.txBusy then (fr, none)
  else
    let buf := Memory.write fr.rxBuf fr.rxCount.toNat b
    if fr.rxCount = 255 then
      ({ fr with rxBuf := buf, gapCount := 0, rxCount := 0 }, some (Memory.readBytes buf 0 frameLen))
    else ({ fr with rxBuf := buf, gapCount := 0, rxCount := fr.rxCount + 1 }, none)

/-- The receiver's gap count of one tick (rule R180): the framer after it, and the number of bytes of the partial frame
it gives up. -/
def Framer.gapTick (fr : Framer) (tGap : BitVec 16) : Framer × Option Nat :=
  if fr.rxCount = 0 then (fr, none)
  else if fr.gapCount + 1 = tGap then ({ fr with rxCount := 0, gapCount := 0 }, some fr.rxCount.toNat)
  else ({ fr with gapCount := fr.gapCount + 1 }, none)

/-! ### The Controller's registers -/

/-- `Send(tx_frame)` and the other sends of the Controller. -/
def Controller.send (c : Controller) (f : List Byte) : Controller := { c with framer := c.framer.send f }

/-- `Arm(n)` of 60_exceptions.md rule R383. -/
def Controller.arm (c : Controller) (n : BitVec 32) : Controller := { c with timerArmed := true, timerCount := n }

/-- `Disarm()` of rule R383. -/
def Controller.disarm (c : Controller) : Controller := { c with timerArmed := false, timerCount := 0 }

/-- The registry entry of an ID. -/
def Controller.record (c : Controller) (i : Byte) : Record := c.registry[i.toNat]'i.isLt

/-- Writes the registry entry of an ID. -/
def Controller.setRecord (c : Controller) (i : Byte) (r : Record) : Controller :=
  { c with registry := c.registry.set i.toNat r i.isLt }

/-- `rec_status[i] <- st`. -/
def Controller.setStatus (c : Controller) (i : Byte) (st : RecStatus) : Controller :=
  c.setRecord i { c.record i with status := st }

/-- `rec_last[i] <- NOW` (43_controller_commands.md rule R324). -/
def Controller.touch (c : Controller) (i : Byte) : Controller :=
  c.setRecord i { c.record i with last := c.now }

/-- Every registry entry through one function. -/
def mapRegistry (f : Record → Record) (v : Vector Record 256) : Vector Record 256 :=
  ⟨⟨v.toList.map f⟩, by simp⟩

/-- `sel_out[k] <- b`. -/
def Controller.setSel (c : Controller) (k : Nat) (b : Bool) : Controller :=
  { c with selOut := setBit c.selOut k b }

/-- `record_reg_event` of 42_controller_registration.md: the report of a registration (60_exceptions.md rule R366). -/
def Controller.recordRegEvent (c : Controller) (kind : RegKind) (slot id : Byte) : Controller :=
  { c with
    evtOvf := c.evtOvf || c.regEvt
    regEvent := { kind := kind, slot := slot, id := id }
    regEvt := true }

/-- `complete(result, info, data)` of 43_controller_commands.md rule R293: the report of a command (60_exceptions.md
rule R366). RXBUF stands at the host offset 0x200. -/
def Controller.complete (c : Controller) (result : ResultCode) (info : Byte) (data : List Byte) : Controller :=
  { c.disarm with
    mem := Memory.writeBytes c.mem 0x200 data
    result := result
    respLen := BitVec.ofNat 8 data.length
    respInfo := info
    expType := 0x00
    done := true
    cst := .idle }

/-- A write of `v` to STATUS: each W1C bit written as 1 is cleared (10_state.md rule R44); the return of the trap
analogue (60_exceptions.md rule R367). -/
def Controller.acknowledge (c : Controller) (v : Word) : Controller :=
  { c with
    done := c.done && !v.getLsbD 1
    regEvt := c.regEvt && !v.getLsbD 2
    evtOvf := c.evtOvf && !v.getLsbD 3
    cmdDropped := c.cmdDropped && !v.getLsbD 4 }

/-! ### The Extension's registers -/

/-- The bits of EVENTS (10_state.md rule R62). -/
def registeredEv : BitVec 4 := 0b0001
/-- CONFIG_EV. -/
def configEv : BitVec 4 := 0b0010
/-- RESTART_EV. -/
def restartEv : BitVec 4 := 0b0100
/-- ERROR_SENT_EV. -/
def errorSentEv : BitVec 4 := 0b1000

/-- Sets bits of EVENTS: the Extension's report (60_exceptions.md rule R366). -/
def Extension.raiseEvents (e : Extension) (bits : BitVec 4) : Extension := { e with events := e.events ||| bits }

/-- A write of `v` to EVENTS: each bit written as 1 is cleared (10_state.md rule R62). -/
def Extension.acknowledge (e : Extension) (v : Word) : Extension := { e with events := e.events &&& ~~~(v.setWidth 4) }

/-- `reply(t, fields)` of 41_extension_fsm.md: a response to the Master. A failed encode sends nothing
(60_exceptions.md rule R365). -/
def Extension.reply (e : Extension) (p : Payload) : Extension :=
  match encodePacket e.params masterId p with
  | .ok f => { e with framer := e.framer.send f }
  | .error _ => e

/-- `reply_error(code)` of 41_extension_fsm.md rule R231. -/
def Extension.replyError (e : Extension) (code : Byte) : Extension :=
  (e.reply (.error code)).raiseEvents errorSentEv

/-! ### The bus -/

/-- The board in slot `k`. -/
def State.board (s : State) (k : Nat) : Option Extension := s.slots[k]?.bind (·.board)

/-- Changes slot `k`; a slot that does not exist changes nothing. -/
def State.mapSlot (s : State) (k : Nat) (f : Slot → Slot) : State := { s with slots := s.slots.modify k f }

/-- Changes the board in slot `k`; an empty slot changes nothing. -/
def State.mapBoard (s : State) (k : Nat) (f : Extension → Extension) : State :=
  s.mapSlot k (fun sl => { sl with board := sl.board.map f })

/-- Changes the Controller. -/
def State.mapCtrl (s : State) (f : Controller → Controller) : State := { s with ctrl := f s.ctrl }

/-- Changes the core at a node by what the rules say of its kind. -/
def State.mapNode (s : State) (n : Node) (fc : Controller → Controller) (fe : Extension → Extension) : State :=
  match n with
  | .controller => s.mapCtrl fc
  | .slot k => s.mapBoard k fe

/-- Changes the framer of a node. -/
def State.mapFramer (s : State) (n : Node) (f : Framer → Framer) : State :=
  s.mapNode n (fun c => { c with framer := f c.framer }) (fun e => { e with framer := f e.framer })

/-- The framer of a node, if there is a core. -/
def State.framer (s : State) : Node → Option Framer
  | .controller => some s.ctrl.framer
  | .slot k => (s.board k).map (·.framer)

/-- The parameters of the core at a node, if there is one. -/
def State.params (s : State) : Node → Option Params
  | .controller => some s.ctrl.params
  | .slot k => (s.board k).map (·.params)

/-- The core at a node is transmitting. -/
def State.busy (s : State) (n : Node) : Bool := ((s.framer n).map (·.txBusy)).getD false

end Sys2Proof.Machine
end

