-- ==== Sys2Proof/Machine/Flags.lean ====
section
/-! DEFINITION. The flags and the words of the two host register interfaces (10_state.md sections 3 and 5), the
interrupt outputs (60_exceptions.md rule R370) and the numeric codes of the enumerated registers. -/

namespace Sys2Proof.Machine

/-! ### Codes -/

/-- `rec_status` as read in REGISTRY (10_state.md rule R36). -/
def RecStatus.code : RecStatus → BitVec 3
  | .absent => 0
  | .unregistered => 1
  | .registering => 2
  | .registered => 3
  | .unresponsive => 4

/-- RESULT (60_exceptions.md rule R361). -/
def ResultCode.code : ResultCode → Byte
  | .ok => 0x00
  | .rejected => 0x01
  | .unresponsive => 0x02
  | .noSuchExtension => 0x03
  | .notRegistered => 0x04
  | .formatError => 0x05
  | .badCommand => 0x06
  | .badTarget => 0x07
  | .transportError => 0x08

/-- KIND of REG_EVENT (10_state.md rule R45). -/
def RegKind.code : RegKind → Byte
  | .none => 0
  | .registered => 1
  | .failed => 2
  | .idExhausted => 3

/-- `EST` as read in STATE (10_state.md rule R57). -/
def EState.code : EState → BitVec 2
  | .uninitialized => 0
  | .selected => 1
  | .registered => 2

/-! ### The Controller -/

/-- `CST` ∈ {CMD_SETTLE, CMD_TX, CMD_WAIT}. -/
def CState.isCmd : CState → Bool
  | .cmdSettle | .cmdTx | .cmdWait => true
  | .idle | .regSettle | .regTx | .regWait => false

/-- `CST` ∈ {REG_SETTLE, REG_TX, REG_WAIT}. -/
def CState.isReg : CState → Bool
  | .regSettle | .regTx | .regWait => true
  | .idle | .cmdSettle | .cmdTx | .cmdWait => false

/-- STATUS.BUSY (10_state.md rule R44). -/
def Controller.busy (c : Controller) : Bool := c.cmdValid || c.cst.isCmd

/-- STATUS.REG_ACTIVE (rule R44). -/
def Controller.regActive (c : Controller) : Bool := c.cst.isReg

/-- STATUS[4:1], the W1C flags. -/
def Controller.flags (c : Controller) : BitVec 4 :=
  BitVec.ofBool c.cmdDropped ++ BitVec.ofBool c.evtOvf ++ BitVec.ofBool c.regEvt ++ BitVec.ofBool c.done

/-- STATUS (rule R44). -/
def Controller.statusWord (c : Controller) : Word :=
  c.respInfo ++ c.respLen ++ c.result.code ++
    (0#2 ++ BitVec.ofBool c.regActive ++ c.flags ++ BitVec.ofBool c.busy)

/-- REG_EVENT (rule R45). -/
def RegEvent.word (r : RegEvent) : Word := 0#8 ++ r.id ++ r.slot ++ r.kind.code

/-- The Controller's interrupt output (60_exceptions.md rule R370). -/
def Controller.irq (c : Controller) : Bool := c.flags &&& c.irqEn ≠ 0

/-! ### The Extension -/

/-- STATE (10_state.md rule R61). -/
def Extension.stateWord (e : Extension) : Word :=
  0#14 ++ BitVec.ofBool e.selSync ++ BitVec.ofBool e.readyOut ++ e.extId ++ (0#6 ++ e.est.code)

/-- The Extension's interrupt output (60_exceptions.md rule R370). -/
def Extension.irq (e : Extension) : Bool := e.events &&& e.irqEn ≠ 0

/-! ### Constant registers -/

/-- INFO of the Controller (10_state.md rules R41, R60). -/
def infoController (p : Params) : Word :=
  0x43#8 ++ p.rRetries ++ BitVec.ofNat 8 p.nslots ++ p.protocolVersion

/-- INFO of the Extension (rule R60). -/
def infoExtension (p : Params) : Word := 0x45#8 ++ 0x00#8 ++ 0x00#8 ++ p.protocolVersion

/-- GAP_SETTLE (rule R52). -/
def gapSettle (p : Params) : Word := p.tSettle ++ p.tGap

/-- CRC_CFG, on both cores (rule R53). -/
def crcCfg (p : Params) : Word := 0x00#8 ++ p.crcXorout ++ p.crcInit ++ p.crcPoly

end Sys2Proof.Machine
end

