-- ==== Sys2Proof/Machine/Operands.lean ====
section
/-! DEFINITION. The operand forms: the target of a command word, the data in the local buffers, the address filters and
the dispatch table of received frames. -/

namespace Sys2Proof.Machine

/-! ### Buffers -/

/-- TXBUF[0..n−1] (10_state.md rule R54). -/
def Controller.txData (c : Controller) (n : Nat) : List Byte := Memory.readBytes c.mem 0x100 n

/-- METRICS_BUF[0..n−1] (10_state.md rule R67). -/
def Extension.metricsData (e : Extension) (n : Nat) : List Byte := Memory.readBytes e.mem 0x100 n

/-- OPTIONS_BUF[0..n−1] (rule R67). -/
def Extension.optionsData (e : Extension) (n : Nat) : List Byte := Memory.readBytes e.mem 0x200 n

/-! ### Command targets -/

/-- `check_target(t)` of 43_controller_commands.md: the first failing check, none if all pass. -/
def Controller.checkTarget (c : Controller) (t : Byte) : Option ResultCode :=
  if t = 0x00 ∨ t = 0xFF then some .badTarget
  else if (c.record t).status = .absent then some .noSuchExtension
  else if (c.record t).status ≠ .registered then some .notRegistered
  else none

/-! ### The dispatch of a frame received by an Extension (41_extension_fsm.md rules R214, R215) -/

/-- The rule a received frame goes to. -/
inductive Route where
  /-- R220 -/
  | register
  /-- R221 -/
  | reRegister
  /-- R222 -/
  | probe
  /-- R224 -/
  | restart
  /-- R225 -/
  | metrics
  /-- R226 -/
  | configure
  /-- R227 -/
  | options
  /-- R223, R228 -/
  | unexpected
  /-- R214, R216, R229 -/
  | drop
deriving DecidableEq, Repr

/-- The rows of rule R215 for a frame with Receiver-ID `ext_id`, in REGISTERED. -/
def addressedRoute : PacketType → Route
  | .metrics => .metrics
  | .configure => .configure
  | .configureOptions => .options
  | .restart => .restart
  | .initProbe => .probe
  | .init => .unexpected
  | .initProbeResponse => .unexpected
  | .acknowledge => .unexpected
  | .error => .unexpected
  | .metricsResponse => .unexpected
  | .configureOptionsResponse => .unexpected

/-- The table of rule R215, its rows in order. -/
def Extension.route (e : Extension) (rid : Byte) (t : PacketType) : Route :=
  if e.est ≠ .registered then
    if rid = 0xFF ∧ e.selSync ∧ t = .init then .register
    else if rid = 0xFF ∧ e.selSync ∧ t = .initProbe then .probe
    else .drop
  else if rid ≠ e.extId ∧ rid ≠ 0xFF then .drop
  else if rid = 0xFF then
    if t = .restart then .restart
    else if e.selSync ∧ t = .init then .reRegister
    else if e.selSync ∧ t = .initProbe then .probe
    else .drop
  else addressedRoute t

end Sys2Proof.Machine
end

