-- ==== Sys2Proof/Machine/Lines.lean ====
section
/-! DEFINITION. The line-signal arbiter (44_line_arbiter.md): sampling, edges, the pending latch, and driving. -/

namespace Sys2Proof.Machine

/-! ### Sampling -/

/-- Phase 2 of a Controller tick: every READY[k] is sampled, and each edge is handled by rule R344: a rising one sets
`pending[k]`, a falling one clears it (44_line_arbiter.md rules R342, R344). `levels` are the sampled levels; slots from
NSLOTS on have no line. -/
def Controller.sampleReady (c : Controller) (levels : BitVec 32) : Controller :=
  let sync := levels &&& lowMask c.params.nslots
  let rising := sync &&& ~~~c.readySync
  let falling := c.readySync &&& ~~~sync
  { c with
    readyPrev := c.readySync
    readySync := sync
    pending := (c.pending ||| rising) &&& ~~~falling }

/-- `LineEdge(SEL, level)` at an Extension (41_extension_fsm.md rule R211). -/
def Extension.lineEdge (e : Extension) (level : Bool) : Extension :=
  { e with
    selSync := level
    est := if e.est = .registered then .registered else if level then .selected else .uninitialized }

/-- The sampling of SEL by an Extension on a tick (44_line_arbiter.md rule R342). -/
def Extension.sampleSel (e : Extension) (level : Bool) : Extension :=
  let e1 := { e with selPrev := e.selSync }
  if level ≠ e1.selPrev then e1.lineEdge level else e1

/-! ### The lines -/

/-- The oldest level on its way arrives. -/
def Line.arrive (l : Line) : Line :=
  match l.inFlight with
  | [] => l
  | b :: bs => { level := b, inFlight := bs }

/-- The Transport is called with a new level (44_line_arbiter.md rule R343). -/
def Line.drive (l : Line) (b : Bool) : Line := { l with inFlight := l.inFlight ++ [b] }

/-- The level driven on READY[k]; an empty slot drives nothing and the pull-down holds the line low (rule R341). -/
def readyDriven (board : Option Extension) : Bool := (board.map (·.readyOut)).getD false

/-- What the Controller samples of the Ready-Lines. -/
def State.readyLevels (s : State) : BitVec 32 := levelBits 0 (s.slots.map (·.ready.level))

/-- The slots, numbered from `k`, after a step that left the driven levels at `old` and now drives others: the Transport
is called for each line whose driven level differs (rule R343). -/
def driveSlots (oldSel newSel : BitVec 32) : Nat → List Slot → List Slot → List Slot
  | k, old :: olds, sl :: sls =>
      let sel := if newSel.getLsbD k = oldSel.getLsbD k then sl.sel else sl.sel.drive (newSel.getLsbD k)
      let ready :=
        if readyDriven sl.board = readyDriven old.board then sl.ready else sl.ready.drive (readyDriven sl.board)
      { sl with sel := sel, ready := ready } :: driveSlots oldSel newSel (k + 1) olds sls
  | _, [], sls => sls
  | _, _ :: _, [] => []

/-- The end of a step that began in `before`: the lines are driven (rule R343). -/
def State.driveLines (s before : State) : State :=
  { s with slots := driveSlots before.ctrl.selOut s.ctrl.selOut 0 before.slots s.slots }

end Sys2Proof.Machine
end

