-- ==== Sys2Proof/Machine/Controller.lean ====
section
/-! DEFINITION. The Controller state machine: discovery and registration (42_controller_registration.md) and host
commands (43_controller_commands.md). -/

namespace Sys2Proof.Machine

/-! ### Registration -/

/-- `send_init()` of rule R266. -/
def Controller.sendInit (c : Controller) : Controller := { c.send c.txFrame with cst := .regTx }

/-- `settle_or_send()` of rule R265. -/
def Controller.settleOrSend (c : Controller) : Controller :=
  if c.params.tSettle = 0 then c.sendInit
  else { c with settleCount := c.params.tSettle, cst := .regSettle }

/-- The frame of a packet that cannot fail to encode (rule R176). -/
def packetFrame (p : Params) (rid : Byte) (payload : Payload) : List Byte :=
  frameBytes p rid payload.ptype.code (padBody (serialize payload))

/-- `allocate()` of rule R263. -/
def Controller.allocate (c : Controller) : Controller :=
  if c.nextId = 0xFF then
    { (c.setSel c.curSlot.toNat false).recordRegEvent .idExhausted (c.curSlot.setWidth 8) 0x00 with cst := .idle }
  else
    let id := c.nextId
    let c1 := { c with curId := id, nextId := c.nextId + 1 }
    let c2 := c1.setStatus id .registering
    Controller.settleOrSend
      { c2 with attempts := 0, txFrame := packetFrame c.params broadcastId (.init id) }

/-- `start_registration(k)` of rule R262. -/
def Controller.startRegistration (c : Controller) (k : Nat) : Controller :=
  Controller.allocate
    ({ c with curSlot := BitVec.ofNat 5 k, pending := setBit c.pending k false }.setSel k true)

/-- The end of a registration by an Acknowledge (rule R268). -/
def Controller.registrationDone (c : Controller) : Controller :=
  let c1 := (c.disarm.setRecord c.curId { status := .registered, last := c.now }).setSel c.curSlot.toNat false
  { c1.recordRegEvent .registered (c.curSlot.setWidth 8) c.curId with cst := .idle }

/-- `exhaust_registration()` of rule R272. -/
def Controller.exhaustRegistration (c : Controller) : Controller :=
  let c1 := (c.setSel c.curSlot.toNat false).setStatus c.curId .unresponsive
  { c1.recordRegEvent .failed (c.curSlot.setWidth 8) c.curId with cst := .idle }

/-- A failed attempt of a registration (rule R271). -/
def Controller.regAttemptFailed (c : Controller) : Controller :=
  let c1 := { c with attempts := c.attempts + 1 }
  if c1.attempts.toNat ≤ c.params.rRetries.toNat then { c1.send c1.txFrame with cst := .regTx }
  else c1.exhaustRegistration

/-! ### The commands -/

/-- OPC of the command in progress. -/
def Controller.curOpc (c : Controller) : Byte := opcOf c.curCmd

/-- `start_exchange(t, frame, exp)` of 43_controller_commands.md. -/
def Controller.startExchange (c : Controller) (t : Byte) (frame : List Byte) (exp : Byte) : Controller :=
  { Controller.send { c with curId := t, txFrame := frame, expType := exp, attempts := 0 } frame with cst := .cmdTx }

/-- A request whose packet is encoded after the target was checked: the first failing check completes the command with
nothing sent (60_exceptions.md rule R379). -/
def Controller.request (c : Controller) (t : Byte) (payload : Payload) (exp : PacketType) : Controller :=
  match c.checkTarget t with
  | some r => c.complete r 0 []
  | none =>
      match encodePacket c.params t payload with
      | .error _ => c.complete .formatError 0 []
      | .ok frame => c.startExchange t frame exp.code

/-- `cmd_metrics(t)` of rule R300. -/
def Controller.cmdMetrics (c : Controller) (t : Byte) : Controller := c.request t .metrics .metricsResponse

/-- `cmd_configure(t, n)` of rule R302. -/
def Controller.cmdConfigure (c : Controller) (t n : Byte) : Controller :=
  c.request t (.configure (c.txData n.toNat)) .acknowledge

/-- `cmd_config_options(t)` of rule R304. -/
def Controller.cmdConfigOptions (c : Controller) (t : Byte) : Controller :=
  c.request t .configureOptions .configureOptionsResponse

/-- `cmd_restart(t)` of rule R306; `exp_type` 0x00 awaits nothing. -/
def Controller.cmdRestart (c : Controller) (t : Byte) : Controller :=
  if t = 0x00 then c.complete .badTarget 0 []
  else if t ≠ 0xFF ∧ (c.record t).status = .absent then c.complete .noSuchExtension 0 []
  else c.startExchange t (packetFrame c.params t .restart) 0x00

/-- `cmd_probe(k)` of rule R308. -/
def Controller.cmdProbe (c : Controller) (k : Byte) : Controller :=
  if c.params.nslots ≤ k.toNat then c.complete .badTarget 0 []
  else
    let frame := packetFrame c.params broadcastId .initProbe
    let c1 :=
      { c.setSel k.toNat true with
        curSlot := k.setWidth 5
        curId := 0xFF
        txFrame := frame
        expType := PacketType.initProbeResponse.code
        attempts := 0 }
    if c.params.tSettle = 0 then { c1.send frame with cst := .cmdTx }
    else { c1 with settleCount := c.params.tSettle, cst := .cmdSettle }

/-- `cmd_reset_registry()` of rule R320. -/
def Controller.cmdResetRegistry (c : Controller) : Controller :=
  Controller.complete
    { c with
      registry := mapRegistry (fun _ => { status := .absent, last := 0 }) c.registry
      nextId := 0x01 } .ok 0 []

/-- A reserved OPC (rule R322). -/
def Controller.badCommand (c : Controller) : Controller := c.complete .badCommand 0 []

/-- The completion of RESTART on its `TxDone` (rule R306). -/
def Controller.restartSent (c : Controller) : Controller :=
  let c1 :=
    if c.curId = 0xFF then
      { c with
        registry := mapRegistry
          (fun r => if r.status = .registered ∨ r.status = .unresponsive then { r with status := .unregistered } else r)
          c.registry }
    else c.setStatus c.curId .unregistered
  c1.complete .ok 0 []

/-- `success(f)` of the command in progress (rules R300, R302, R304, R308). -/
def Controller.success (c : Controller) (f : Payload) : Controller :=
  if c.curOpc = 0x05 then
    let c1 := c.setSel c.curSlot.toNat false
    match f with
    | .initProbeResponse status id =>
        if status = 0x01 then c1.complete .ok 0x01 [id] else c1.complete .ok 0x00 []
    | _ => c1.complete .ok 0x00 []
  else if c.curOpc = 0x02 then (c.touch c.curId).complete .ok 0 []
  else (c.touch c.curId).complete .ok 0 f.blobData

/-- An Error frame answers the command (rule R296). -/
def Controller.rejected (c : Controller) (code : Byte) : Controller :=
  let c1 := if c.curOpc = 0x05 then c.setSel c.curSlot.toNat false else c
  c1.complete .rejected code []

/-- `cmd_attempt_failed()` of rule R294. -/
def Controller.cmdAttemptFailed (c : Controller) : Controller :=
  let c1 := { c with attempts := c.attempts + 1 }
  if c1.attempts.toNat ≤ c.params.rRetries.toNat then { c1.send c1.txFrame with cst := .cmdTx }
  else if c.curOpc = 0x05 then (c1.setSel c.curSlot.toNat false).complete .unresponsive 0 []
  else if c.curOpc = 0x04 then c1.complete .transportError 0 []
  else (c1.setStatus c.curId .unresponsive).complete .unresponsive 0 []

/-! ### Events -/

/-- `FrameReceived(P)` at the Controller: the address filter of rule R326, then the state's rule (rules R268, R269, R296,
R295, R299, R328). -/
def Controller.frameReceived (c : Controller) (rid : Byte) (t : PacketType) (body : List Byte) : Controller :=
  if rid ≠ masterId then c
  else match c.cst with
  | .regWait => if t = .acknowledge ∧ parse t body ≠ none then c.registrationDone else c
  | .cmdWait =>
      match parse t body with
      | none => c
      | some f =>
          if t.code = c.expType then c.success f
          else match f with
          | .error code => c.rejected code
          | _ => c
  | .idle => c
  | .regSettle => c
  | .regTx => c
  | .cmdSettle => c
  | .cmdTx => c

/-- `FrameDecodeFailed(reason, info)` at the Controller (rules R269, R295, R297, R299, R328): only a ChecksumMismatch in
CMD_WAIT counts. -/
def Controller.decodeFailed (c : Controller) (reason : DecodeError) : Controller :=
  match reason with
  | .checksumMismatch _ => if c.cst = .cmdWait then c.disarm.cmdAttemptFailed else c
  | .lengthMismatch _ => c
  | .versionMismatch _ => c
  | .unknownType _ _ => c

/-- `TxDone` (40_framer_crc.md rule R177; rules R267, R295). -/
def Controller.txDone (c : Controller) : Controller :=
  let c1 := { c with framer := c.framer.endSend }
  match c.cst with
  | .regTx => { c1.arm c.params.tTimeout with cst := .regWait }
  | .cmdTx => if c.curOpc = 0x04 then c1.restartSent else { c1.arm c.params.tTimeout with cst := .cmdWait }
  | .idle => c1
  | .regSettle => c1
  | .regWait => c1
  | .cmdSettle => c1
  | .cmdWait => c1

/-- `TxError` (40_framer_crc.md rule R177; rules R267, R295). -/
def Controller.txError (c : Controller) : Controller :=
  let c1 := { c with framer := c.framer.endSend }
  match c.cst with
  | .regTx => c1.regAttemptFailed
  | .cmdTx => c1.cmdAttemptFailed
  | .idle => c1
  | .regSettle => c1
  | .regWait => c1
  | .cmdSettle => c1
  | .cmdWait => c1

/-- `Timeout` (rules R271, R298); in the other states no timer runs. -/
def Controller.timeout (c : Controller) : Controller :=
  match c.cst with
  | .regWait => c.regAttemptFailed
  | .cmdWait => c.cmdAttemptFailed
  | .idle => c
  | .regSettle => c
  | .regTx => c
  | .cmdSettle => c
  | .cmdTx => c

/-! ### The phases of a tick (60_exceptions.md rule R378) -/

/-- Phase 3: the receiver's gap count. -/
def Controller.tickGap (c : Controller) : Controller :=
  let (fr, gap) := c.framer.gapTick c.params.tGap
  let c1 := { c with framer := fr }
  match gap with
  | none => c1
  | some n => c1.decodeFailed (.lengthMismatch n)

/-- Phase 4: the settle countdown (rules R265, R299). -/
def Controller.tickSettle (c : Controller) : Controller :=
  let c1 := { c with settleCount := c.settleCount - 1 }
  match c.cst with
  | .regSettle => if c1.settleCount = 0 then c1.sendInit else c1
  | .cmdSettle => if c1.settleCount = 0 then { c1.send c1.txFrame with cst := .cmdTx } else c1
  | .idle => c
  | .regTx => c
  | .regWait => c
  | .cmdTx => c
  | .cmdWait => c

/-- Phase 5: the response timer (60_exceptions.md rule R383). -/
def Controller.tickTimer (c : Controller) : Controller :=
  if c.timerArmed then
    let c1 := { c with timerCount := c.timerCount - 1 }
    if c1.timerCount = 0 then Controller.timeout { c1 with timerArmed := false } else c1
  else c

/-- One `Tick` of the Controller, without the `arbitrate()` at the end of the step; `levels` are the levels of the
Ready-Lines. -/
def Controller.tick (c : Controller) (levels : BitVec 32) : Controller :=
  (Controller.sampleReady { c with now := c.now + 1 } levels).tickGap.tickSettle.tickTimer

/-! ### Arbitration -/

/-- The lowest pending slot (42_controller_registration.md rules R260, R261). -/
def Controller.lowestPending (c : Controller) : Option Nat :=
  (List.range c.params.nslots).find? (fun k => c.pending.getLsbD k)

/-- The start of a latched command, before its opcode's rule: the latch is freed and the word becomes the command in
progress (43_controller_commands.md rule R292). -/
def Controller.takeCommand (c : Controller) : Controller := { c with cmdValid := false, curCmd := c.cmdLatched }

end Sys2Proof.Machine
end

