-- ==== Sys2Proof/Machine/Commands.lean ====
section
/-! DEFINITION. The meanings of the host commands: what `start_command()` runs for the opcode of the command word
(43_controller_commands.md rule R292). The latch is already free and `cur_cmd` holds the word (`Controller.takeCommand`).
LEN is an operand of CONFIGURE only; RSVD is ignored (30_encoding.md rule R150). -/

namespace Sys2Proof.Machine

/-- METRICS (rule R300). -/
def execCmdMetrics (target _len _rsvd : Byte) (s : State) : Host.Outcome State Fault Refusal :=
  .next (s.mapCtrl (fun c => c.cmdMetrics target))

/-- CONFIGURE (rule R302). -/
def execCmdConfigure (target len _rsvd : Byte) (s : State) : Host.Outcome State Fault Refusal :=
  .next (s.mapCtrl (fun c => c.cmdConfigure target len))

/-- CONFIG_OPTIONS (rule R304). -/
def execCmdConfigOptions (target _len _rsvd : Byte) (s : State) : Host.Outcome State Fault Refusal :=
  .next (s.mapCtrl (fun c => c.cmdConfigOptions target))

/-- RESTART (rule R306). -/
def execCmdRestart (target _len _rsvd : Byte) (s : State) : Host.Outcome State Fault Refusal :=
  .next (s.mapCtrl (fun c => c.cmdRestart target))

/-- PROBE (rule R308): TARGET is the slot index. -/
def execCmdProbe (target _len _rsvd : Byte) (s : State) : Host.Outcome State Fault Refusal :=
  .next (s.mapCtrl (fun c => c.cmdProbe target))

/-- RESET_REGISTRY (rule R320). -/
def execCmdResetRegistry (_target _len _rsvd : Byte) (s : State) : Host.Outcome State Fault Refusal :=
  .next (s.mapCtrl (fun c => c.cmdResetRegistry))

/-! The rows of the reserved opcodes (30_encoding.md rule R152, 43_controller_commands.md rule R322). -/

/-- OPC 0x00. -/
def execReserved00 (_target _len _rsvd : Byte) (s : State) : Host.Outcome State Fault Refusal :=
  .next (s.mapCtrl (fun c => c.badCommand))

/-- OPC 0x07. -/
def execReserved07 (_target _len _rsvd : Byte) (s : State) : Host.Outcome State Fault Refusal :=
  .next (s.mapCtrl (fun c => c.badCommand))

/-- OPC 0x08..0x0F. -/
def execReserved08 (_low : BitVec 3) (_target _len _rsvd : Byte) (s : State) : Host.Outcome State Fault Refusal :=
  .next (s.mapCtrl (fun c => c.badCommand))

/-- OPC 0x10..0x1F. -/
def execReserved10 (_low : BitVec 4) (_target _len _rsvd : Byte) (s : State) : Host.Outcome State Fault Refusal :=
  .next (s.mapCtrl (fun c => c.badCommand))

/-- OPC 0x20..0x3F. -/
def execReserved20 (_low : BitVec 5) (_target _len _rsvd : Byte) (s : State) : Host.Outcome State Fault Refusal :=
  .next (s.mapCtrl (fun c => c.badCommand))

/-- OPC 0x40..0x7F. -/
def execReserved40 (_low : BitVec 6) (_target _len _rsvd : Byte) (s : State) : Host.Outcome State Fault Refusal :=
  .next (s.mapCtrl (fun c => c.badCommand))

/-- OPC 0x80..0xFF. -/
def execReserved80 (_low : BitVec 7) (_target _len _rsvd : Byte) (s : State) : Host.Outcome State Fault Refusal :=
  .next (s.mapCtrl (fun c => c.badCommand))

end Sys2Proof.Machine
end

