-- ==== Sys2Proof/Machine/Framer.lean ====
section
/-! DEFINITION. The meanings of the four framer operations (40_framer_crc.md). They are pure functions: a call reads its
operand and the parameters of the node's framer, and its result is the model's field `framerResult` (log entry 7). A slot
without a board has no framer, and a call there gives no result. -/

namespace Sys2Proof.Machine

/-- Hands over the result of a framer operation at the active node. -/
def State.framerCall (s : State) (f : Params → FramerResult) : State :=
  { s with framerResult := (s.params s.active).map f }

/-- `crc8(s)` (rule R170). -/
def execCrc8 (bytes : List Byte) (s : State) : Host.Outcome State Fault Refusal :=
  .next (s.framerCall (fun p => .crc (crc8 p bytes)))

/-- `encode(p)` (rule R174). -/
def execEncode (rid : Byte) (payload : Payload) (s : State) : Host.Outcome State Fault Refusal :=
  .next (s.framerCall (fun p =>
    match encodePacket p rid payload with
    | .ok f => .frame f
    | .error n => .formatError n))

/-- `decode(s)` (rule R183). -/
def execDecode (bytes : List Byte) (s : State) : Host.Outcome State Fault Refusal :=
  .next (s.framerCall (fun p =>
    match decodePacket p bytes with
    | .ok packet => .packet packet
    | .error e => .decodeError e))

/-- `parse(t, body)` (rule R187). -/
def execParse (ptype : PacketType) (body : List Byte) (s : State) : Host.Outcome State Fault Refusal :=
  .next (s.framerCall (fun _ =>
    match parse ptype body with
    | some f => .fields f
    | none => .malformed))

end Sys2Proof.Machine
end

