-- ==== Sys2Proof/Machine/Extension.lean ====
section
/-! DEFINITION. The Extension state machine (41_extension_fsm.md). A board that is not in the state or not the address
of the frame's row of rule R215 drops it. -/

namespace Sys2Proof.Machine

/-- INIT received in SELECTED (rule R220): the registration. A malformed body is dropped. -/
def Extension.register (e : Extension) (body : List Byte) : Extension :=
  match parse .init body with
  | some (.init id) =>
      Extension.reply
        ({ e with extId := id, est := .registered, readyOut := false }.raiseEvents registeredEv) .acknowledge
  | _ => e

/-- INIT received in REGISTERED with SEL asserted (rule R221): a retried registration; the ID is adopted. -/
def Extension.reRegister (e : Extension) (body : List Byte) : Extension :=
  match parse .init body with
  | some (.init id) => Extension.reply ({ e with extId := id }.raiseEvents registeredEv) .acknowledge
  | _ => e

/-- INIT_PROBE (rule R222). -/
def Extension.answerProbe (e : Extension) (rid : Byte) (body : List Byte) : Extension :=
  match parse .initProbe body with
  | none => if rid = e.extId ∧ e.est = .registered then e.replyError 0x02 else e
  | some _ =>
      if e.est = .registered then e.reply (.initProbeResponse 0x01 e.extId)
      else e.reply (.initProbeResponse 0x00 0x00)

/-- RESTART (rule R224). -/
def Extension.doRestart (e : Extension) (rid : Byte) (body : List Byte) : Extension :=
  match parse .restart body with
  | none => if rid = e.extId then e.replyError 0x02 else e
  | some _ =>
      { e with
        extId := 0x00
        est := if e.selSync then .selected else .uninitialized
        readyOut := true }.raiseEvents restartEv

/-- METRICS (rule R225). -/
def Extension.answerMetrics (e : Extension) (body : List Byte) : Extension :=
  match parse .metrics body with
  | none => e.replyError 0x02
  | some _ =>
      if 251 < e.metricsLen.toNat then e.replyError 0x04
      else e.reply (.metricsResponse (e.metricsData e.metricsLen.toNat))

/-- CONFIGURE (rule R226). CONFIG_BUF stands at the host offset 0x300. -/
def Extension.storeConfig (e : Extension) (body : List Byte) : Extension :=
  match parse .configure body with
  | some (.configure data) =>
      Extension.reply
        ({ e with
            mem := Memory.writeBytes e.mem 0x300 data
            configLen := BitVec.ofNat 8 data.length }.raiseEvents configEv) .acknowledge
  | _ => e.replyError 0x02

/-- CONFIGURE_OPTIONS (rule R227). -/
def Extension.answerOptions (e : Extension) (body : List Byte) : Extension :=
  match parse .configureOptions body with
  | none => e.replyError 0x02
  | some _ =>
      if 251 < e.optionsLen.toNat then e.replyError 0x04
      else e.reply (.configureOptionsResponse (e.optionsData e.optionsLen.toNat))

/-- `FrameReceived(P)` at an Extension: the row of rule R215, then that row's rule. -/
def Extension.frameReceived (e : Extension) (rid : Byte) (t : PacketType) (body : List Byte) : Extension :=
  match e.route rid t with
  | .register => e.register body
  | .reRegister => e.reRegister body
  | .probe => e.answerProbe rid body
  | .restart => e.doRestart rid body
  | .metrics => e.answerMetrics body
  | .configure => e.storeConfig body
  | .options => e.answerOptions body
  | .unexpected => e.replyError 0x03
  | .drop => e

/-- `FrameDecodeFailed(reason, info)` at an Extension (rule R213). -/
def Extension.decodeFailed (e : Extension) (reason : DecodeError) : Extension :=
  match reason with
  | .unknownType rid _ => if e.est = .registered ∧ rid = e.extId then e.replyError 0x01 else e
  | .lengthMismatch _ => e
  | .versionMismatch _ => e
  | .checksumMismatch _ => e

/-- `TxDone` and `TxError` at an Extension (rule R234). -/
def Extension.endSend (e : Extension) : Extension := { e with framer := e.framer.endSend }

/-- One `Tick` of an Extension (60_exceptions.md rule R378): the sampling of SEL, then the gap count. -/
def Extension.tick (e : Extension) (level : Bool) : Extension :=
  let e1 := e.sampleSel level
  let (fr, gap) := e1.framer.gapTick e1.params.tGap
  let e2 := { e1 with framer := fr }
  match gap with
  | none => e2
  | some n => e2.decodeFailed (.lengthMismatch n)

end Sys2Proof.Machine
end

