-- ==== Sys2Proof/Machine/Packets.lean ====
section
/-! DEFINITION. The meanings of the packet types: what the node that completes the frame does with it, in the step of the
frame's last byte (40_framer_crc.md rule R179). Each node kind has its own handling (00_scope.md rule R4): at the
Controller 42_controller_registration.md and 43_controller_commands.md, at a board the table of 41_extension_fsm.md rule
R215. -/

namespace Sys2Proof.Machine

/-- `FrameReceived(P)` at the active node. -/
def State.frameReceived (s : State) (rid : Byte) (t : PacketType) (body : List Byte) : State :=
  s.mapNode s.active (fun c => c.frameReceived rid t body) (fun e => e.frameReceived rid t body)

/-- `FrameDecodeFailed(reason, info)` at the active node. -/
def State.decodeFailed (s : State) (reason : DecodeError) : State :=
  s.mapNode s.active (fun c => c.decodeFailed reason) (fun e => e.decodeFailed reason)

/-- INIT_PROBE: at a board rule R222. -/
def execInitProbe (rid : Byte) (body : List Byte) (s : State) : Host.Outcome State Fault Refusal :=
  .next (s.frameReceived rid .initProbe body)

/-- INIT_PROBE_RESPONSE: at the Controller the answer to PROBE (43_controller_commands.md rules R296, R308); at a
board rule R223. -/
def execInitProbeResponse (rid : Byte) (body : List Byte) (s : State) : Host.Outcome State Fault Refusal :=
  .next (s.frameReceived rid .initProbeResponse body)

/-- INIT: at a board rules R220, R221 and R228. -/
def execInit (rid : Byte) (body : List Byte) (s : State) : Host.Outcome State Fault Refusal :=
  .next (s.frameReceived rid .init body)

/-- ACKNOWLEDGE: at the Controller the end of a registration (42_controller_registration.md rule R268) or of CONFIGURE
(43_controller_commands.md rules R296, R302); at a board rule R223. -/
def execAcknowledge (rid : Byte) (body : List Byte) (s : State) : Host.Outcome State Fault Refusal :=
  .next (s.frameReceived rid .acknowledge body)

/-- ERROR: at the Controller a terminal failure of the command (43_controller_commands.md rule R296); at a board rule
R223. -/
def execError (rid : Byte) (body : List Byte) (s : State) : Host.Outcome State Fault Refusal :=
  .next (s.frameReceived rid .error body)

/-- RESTART: at a board rule R224. -/
def execRestart (rid : Byte) (body : List Byte) (s : State) : Host.Outcome State Fault Refusal :=
  .next (s.frameReceived rid .restart body)

/-- CONFIGURE: at a board rule R226. -/
def execConfigure (rid : Byte) (body : List Byte) (s : State) : Host.Outcome State Fault Refusal :=
  .next (s.frameReceived rid .configure body)

/-- METRICS: at a board rule R225. -/
def execMetrics (rid : Byte) (body : List Byte) (s : State) : Host.Outcome State Fault Refusal :=
  .next (s.frameReceived rid .metrics body)

/-- METRICS_RESPONSE: at the Controller the answer to METRICS (43_controller_commands.md rules R296, R300); at a board
rule R223. -/
def execMetricsResponse (rid : Byte) (body : List Byte) (s : State) : Host.Outcome State Fault Refusal :=
  .next (s.frameReceived rid .metricsResponse body)

/-- CONFIGURE_OPTIONS: at a board rule R227. -/
def execConfigureOptions (rid : Byte) (body : List Byte) (s : State) : Host.Outcome State Fault Refusal :=
  .next (s.frameReceived rid .configureOptions body)

/-- CONFIGURE_OPTIONS_RESPONSE: at the Controller the answer to CONFIG_OPTIONS (43_controller_commands.md rules R296,
R304); at a board rule R223. -/
def execConfigureOptionsResponse (rid : Byte) (body : List Byte) (s : State) : Host.Outcome State Fault Refusal :=
  .next (s.frameReceived rid .configureOptionsResponse body)

/-! The rows of the unassigned types (30_encoding.md rule R133): the frame fails decode with UnknownType
(40_framer_crc.md rules R183, R184). A REGISTERED board it is addressed to answers Error 0x01 (41_extension_fsm.md rule
R213); every other node discards it. -/

/-- The type 0x00. -/
def execUnassigned00 (rid : Byte) (_body : List Byte) (s : State) : Host.Outcome State Fault Refusal :=
  .next (s.decodeFailed (.unknownType rid (0x00)))

/-- The types 0x0C..0x0F. -/
def execUnassigned0C (low : BitVec 2) (rid : Byte) (_body : List Byte) (s : State) : Host.Outcome State Fault Refusal :=
  .next (s.decodeFailed (.unknownType rid (0b000011#6 ++ low)))

/-- The types 0x10..0x1F. -/
def execUnassigned10 (low : BitVec 4) (rid : Byte) (_body : List Byte) (s : State) : Host.Outcome State Fault Refusal :=
  .next (s.decodeFailed (.unknownType rid (0b0001#4 ++ low)))

/-- The types 0x20..0x3F. -/
def execUnassigned20 (low : BitVec 5) (rid : Byte) (_body : List Byte) (s : State) : Host.Outcome State Fault Refusal :=
  .next (s.decodeFailed (.unknownType rid (0b001#3 ++ low)))

/-- The types 0x40..0x7F. -/
def execUnassigned40 (low : BitVec 6) (rid : Byte) (_body : List Byte) (s : State) : Host.Outcome State Fault Refusal :=
  .next (s.decodeFailed (.unknownType rid (0b01#2 ++ low)))

/-- The types 0x80..0xFF. -/
def execUnassigned80 (low : BitVec 7) (rid : Byte) (_body : List Byte) (s : State) : Host.Outcome State Fault Refusal :=
  .next (s.decodeFailed (.unknownType rid (0b1#1 ++ low)))

end Sys2Proof.Machine
end

