-- ==== Sys2Proof/Machine/Dispatch.lean ====
section
/-! DEFINITION. The dispatch: one arm per constructor of Instr, each a direct call of that instruction's meaning. -/

namespace Sys2Proof.Machine

def exec (i : Instr) (s : State) : Host.Outcome State Fault Refusal :=
  match i with
  | .initProbe rid body => Sys2Proof.Machine.execInitProbe rid body s
  | .initProbeResponse rid body => Sys2Proof.Machine.execInitProbeResponse rid body s
  | .init rid body => Sys2Proof.Machine.execInit rid body s
  | .acknowledge rid body => Sys2Proof.Machine.execAcknowledge rid body s
  | .error rid body => Sys2Proof.Machine.execError rid body s
  | .restart rid body => Sys2Proof.Machine.execRestart rid body s
  | .configure rid body => Sys2Proof.Machine.execConfigure rid body s
  | .metrics rid body => Sys2Proof.Machine.execMetrics rid body s
  | .metricsResponse rid body => Sys2Proof.Machine.execMetricsResponse rid body s
  | .configureOptions rid body => Sys2Proof.Machine.execConfigureOptions rid body s
  | .configureOptionsResponse rid body => Sys2Proof.Machine.execConfigureOptionsResponse rid body s
  | .unassigned00 rid body => Sys2Proof.Machine.execUnassigned00 rid body s
  | .unassigned0C low rid body => Sys2Proof.Machine.execUnassigned0C low rid body s
  | .unassigned10 low rid body => Sys2Proof.Machine.execUnassigned10 low rid body s
  | .unassigned20 low rid body => Sys2Proof.Machine.execUnassigned20 low rid body s
  | .unassigned40 low rid body => Sys2Proof.Machine.execUnassigned40 low rid body s
  | .unassigned80 low rid body => Sys2Proof.Machine.execUnassigned80 low rid body s
  | .cmdMetrics target len rsvd => Sys2Proof.Machine.execCmdMetrics target len rsvd s
  | .cmdConfigure target len rsvd => Sys2Proof.Machine.execCmdConfigure target len rsvd s
  | .cmdConfigOptions target len rsvd => Sys2Proof.Machine.execCmdConfigOptions target len rsvd s
  | .cmdRestart target len rsvd => Sys2Proof.Machine.execCmdRestart target len rsvd s
  | .cmdProbe target len rsvd => Sys2Proof.Machine.execCmdProbe target len rsvd s
  | .cmdResetRegistry target len rsvd => Sys2Proof.Machine.execCmdResetRegistry target len rsvd s
  | .reserved00 target len rsvd => Sys2Proof.Machine.execReserved00 target len rsvd s
  | .reserved07 target len rsvd => Sys2Proof.Machine.execReserved07 target len rsvd s
  | .reserved08 low target len rsvd => Sys2Proof.Machine.execReserved08 low target len rsvd s
  | .reserved10 low target len rsvd => Sys2Proof.Machine.execReserved10 low target len rsvd s
  | .reserved20 low target len rsvd => Sys2Proof.Machine.execReserved20 low target len rsvd s
  | .reserved40 low target len rsvd => Sys2Proof.Machine.execReserved40 low target len rsvd s
  | .reserved80 low target len rsvd => Sys2Proof.Machine.execReserved80 low target len rsvd s
  | .crc8 bytes => Sys2Proof.Machine.execCrc8 bytes s
  | .encode rid payload => Sys2Proof.Machine.execEncode rid payload s
  | .decode bytes => Sys2Proof.Machine.execDecode bytes s
  | .parse ptype body => Sys2Proof.Machine.execParse ptype body s

end Sys2Proof.Machine
end

