-- ==== Sys2Proof/Machine/HostPort.lean ====
section
/-! DEFINITION. The two host register interfaces (10_state.md sections 3 and 5, 20_memory.md section 2): `word_at` and
`apply_write` of rule R101. Offsets that no register has read 0 and ignore writes. -/

namespace Sys2Proof.Machine

/-- An access is legal exactly when it is one aligned 32-bit word (20_memory.md rule R101). -/
def legalAccess (addr : BitVec 12) (size : Nat) : Bool := size = 4 ∧ addr.extractLsb' 0 2 = 0

/-- A word of REGISTRY, at the offset `d` from 0x800 (10_state.md rule R56). -/
def Controller.registryWord (c : Controller) (d : Nat) : Word :=
  let r := c.record (BitVec.ofNat 8 (d / 8))
  if d % 8 = 0 then r.status.code.setWidth 32 else r.last

/-- `word_at` of the Controller (10_state.md rules R40..R56). -/
def Controller.wordAt (c : Controller) (a : Nat) : Word :=
  if a = 0x000 then infoController c.params
  else if a = 0x004 then c.params.tTimeout
  else if a = 0x008 then c.cmd
  else if a = 0x00C then c.statusWord
  else if a = 0x010 then c.regEvent.word
  else if a = 0x014 then 0#27 ++ c.irqEn ++ 0#1
  else if a = 0x018 then c.nextId.setWidth 32
  else if a = 0x01C then c.now
  else if a = 0x020 then c.readySync &&& lowMask c.params.nslots
  else if a = 0x024 then c.selOut &&& lowMask c.params.nslots
  else if a = 0x028 then c.pending &&& lowMask c.params.nslots
  else if a = 0x02C then gapSettle c.params
  else if a = 0x030 then crcCfg c.params
  else if 0x100 ≤ a ∧ a < 0x300 then Memory.readWord c.mem a
  else if 0x800 ≤ a then c.registryWord (a - 0x800)
  else 0

/-- The command-issue operation (43_controller_commands.md rule R290), without the `arbitrate()` at the end of the
step. -/
def Controller.issueCommand (c : Controller) (w : Word) : Controller :=
  if c.busy then { c with cmdDropped := true }
  else { c with cmd := w, cmdLatched := w, cmdValid := true, done := false }

/-- `apply_write` of the Controller (20_memory.md rule R104). -/
def Controller.applyWrite (c : Controller) (a : Nat) (v : Word) : Controller :=
  if a = 0x008 then c.issueCommand v
  else if a = 0x00C then c.acknowledge v
  else if a = 0x014 then { c with irqEn := v.extractLsb' 1 4 }
  else if 0x100 ≤ a ∧ a < 0x200 then { c with mem := Memory.writeBytes c.mem a (wordBytes v) }
  else c

/-- `word_at` of the Extension (10_state.md rules R59..R67). -/
def Extension.wordAt (e : Extension) (a : Nat) : Word :=
  if a = 0x000 then infoExtension e.params
  else if a = 0x004 then e.stateWord
  else if a = 0x008 then e.events.setWidth 32
  else if a = 0x00C then e.irqEn.setWidth 32
  else if a = 0x010 then e.metricsLen.setWidth 32
  else if a = 0x014 then e.optionsLen.setWidth 32
  else if a = 0x018 then e.configLen.setWidth 32
  else if a = 0x030 then crcCfg e.params
  else if 0x100 ≤ a ∧ a < 0x400 then Memory.readWord e.mem a
  else 0

/-- `apply_write` of the Extension (20_memory.md rule R104). -/
def Extension.applyWrite (e : Extension) (a : Nat) (v : Word) : Extension :=
  if a = 0x008 then e.acknowledge v
  else if a = 0x00C then { e with irqEn := v.setWidth 4 }
  else if a = 0x010 then { e with metricsLen := v.setWidth 8 }
  else if a = 0x014 then { e with optionsLen := v.setWidth 8 }
  else if 0x100 ≤ a ∧ a < 0x300 then { e with mem := Memory.writeBytes e.mem a (wordBytes v) }
  else e

/-- The word a node's register interface gives at an offset. -/
def State.wordAt (s : State) (n : Node) (a : Nat) : Word :=
  match n with
  | .controller => s.ctrl.wordAt a
  | .slot k => ((s.board k).map (fun e => e.wordAt a)).getD 0

end Sys2Proof.Machine
end

