-- ==== Sys2Proof/Machine/Medium.lean ====
section
/-! DEFINITION. The bus medium (00_scope.md rule R16): the channel model of 20_memory.md rule R118, for each receiver on
its own. -/

namespace Sys2Proof.Machine

/-! ### One receiver -/

/-- Nothing of the transmission is left: its bytes were delivered, and it owes no silence. -/
def Transmission.spent (t : Transmission) : Bool :=
  (t.carriage = .intact || t.carriage = .damaged) && t.bytes.isEmpty

/-- The wire that begins with `t`, unless nothing of `t` is left. -/
def Transmission.before (t : Transmission) (w : Wire) : Wire := if t.spent then w else t :: w

/-- The next byte, as it was sent, and the wire without it (rule R118 (a)). -/
def Wire.deliver : Wire → Option (Byte × Wire)
  | [] => none
  | t :: w =>
      match t.bytes with
      | [] => none
      | b :: bs => if t.carriage = .garbled then none else some (b, Transmission.before { t with bytes := bs } w)

/-- The wire after byte `b` was delivered in place of the next one (rule R118 (c)); a frame that is cut is not changed
as well. -/
def Wire.corrupt (b : Byte) : Wire → Option Wire
  | [] => none
  | t :: w =>
      match t.bytes with
      | [] => none
      | b0 :: bs =>
          if t.carriage = .intact ∨ t.carriage = .damaged then
            some (Transmission.before
              { t with bytes := bs, carriage := if b = b0 then t.carriage else .damaged } w)
          else none

/-- The sender whose transmission the receiver has whole with its next byte. -/
def Wire.finishing : Wire → Option Node
  | [] => none
  | t :: _ => if t.ended = false ∧ t.bytes.length = 1 then some t.sender else none

/-- The frame that comes in is cut, and `quiet` ticks of silence follow (rule R118 (b)); a frame that was changed is
not cut as well. -/
def Wire.cut (quiet : Nat) : Wire → Wire
  | [] => []
  | t :: w => if t.carriage = .intact ∧ t.bytes ≠ [] then { t with bytes := [], carriage := .cut quiet } :: w else t :: w

/-- Any byte may come in: no frame does, or transmissions overlapped (rule R118 (d); noise between frames, log entry
11). -/
def Wire.noisy : Wire → Bool
  | [] => true
  | t :: _ => t.carriage = .garbled

/-- Nothing more of an overlapped transmission comes in. -/
def Wire.noiseEnds : Wire → Wire
  | [] => []
  | t :: w => if t.carriage = .garbled then w else t :: w

/-- One tick of silence after a frame that was cut. -/
def Wire.silentTick : Wire → Wire
  | [] => []
  | t :: w =>
      match t.carriage with
      | .cut quiet =>
          if t.bytes ≠ [] then t :: w else if quiet ≤ 1 then w else { t with carriage := .cut (quiet - 1) } :: w
      | .intact => t :: w
      | .damaged => t :: w
      | .garbled => t :: w

/-- The Transport of `n` is done with its transmission. -/
def Wire.endOf (n : Node) (w : Wire) : Wire := w.map (fun t => if t.sender = n then { t with ended := true } else t)

/-- What is left of a transmission that its sender's Transport gave up: of the `m` bytes that were not delivered at most
`m - 1`, so that the frame never gets there whole, and then `quiet` ticks of silence. -/
def Transmission.giveUp (keep quiet : Nat) (t : Transmission) : Transmission :=
  if (t.carriage = .intact ∨ t.carriage = .damaged) ∧ t.bytes ≠ [] then
    { t with bytes := t.bytes.take (keep % t.bytes.length), carriage := .cut quiet }
  else t

/-- The transmission of `n` that was in progress was given up. -/
def Wire.giveUp (n : Node) (keep quiet : Nat) (w : Wire) : Wire :=
  Wire.endOf n (w.map (fun t => if t.sender = n ∧ t.ended = false then t.giveUp keep quiet else t))

/-- The transmissions on the line, those of the nodes `line`, are overlapped. -/
def Wire.garble (line : List Node) (w : Wire) : Wire :=
  w.map (fun t => if t.ended = false ∧ t.sender ∈ line then { t with carriage := .garbled } else t)

/-- The frame `f` of `n` comes in while the transmissions of the nodes `line` are on the line, with which it overlaps (rule
R117). -/
def Wire.hear (n : Node) (f : List Byte) (line : List Node) (w : Wire) : Wire :=
  if line = [] then w ++ [{ sender := n, bytes := f, carriage := .intact, ended := false }]
  else Wire.garble line w ++ [{ sender := n, bytes := f, carriage := .garbled, ended := false }]

/-! ### Every receiver -/

/-- The transmissions on their way to a node. -/
def State.wire (s : State) : Node → Wire
  | .controller => s.ctrlWire
  | .slot k => (s.slots[k]?.map (·.wire)).getD []

/-- Writes the transmissions on their way to a node. -/
def State.setWire (s : State) (n : Node) (w : Wire) : State :=
  match n with
  | .controller => { s with ctrlWire := w }
  | .slot k => s.mapSlot k (fun sl => { sl with wire := w })

/-- A slot with the wire of its board, if there is one, through `f`, which is given the board's parameters. -/
def Slot.mapWire (f : Params → Wire → Wire) (sl : Slot) : Slot :=
  match sl.board with
  | none => sl
  | some e => { sl with wire := f e.params sl.wire }

/-- The slots, numbered from `k`, with the wire of every attached board through `f`. -/
def mapSlotWires (f : Node → Params → Wire → Wire) : Nat → List Slot → List Slot
  | _, [] => []
  | k, sl :: sls => sl.mapWire (f (.slot k)) :: mapSlotWires f (k + 1) sls

/-- The wire of every attached node through `f`. -/
def State.mapWires (s : State) (f : Node → Params → Wire → Wire) : State :=
  { s with ctrlWire := f .controller s.ctrl.params s.ctrlWire, slots := mapSlotWires f 0 s.slots }

/-- The transmission of `n` is on the line no more. -/
def State.leaveLine (s : State) (n : Node) : State := { s with onLine := s.onLine.filter (· ≠ n) }

/-- The medium has delivered a byte to the node `n`, and its wire is now `w`. A transmission whose last byte a node has
received has left the line, so a frame that answers it does not overlap it, even before its sender's `TxDone` (95_test_vectors.md
program P1, 20_memory.md rule R116). -/
def State.takeByte (s : State) (n : Node) (w : Wire) : State :=
  match Wire.finishing (s.wire n) with
  | none => s.setWire n w
  | some m => (s.setWire n w).leaveLine m

/-- The nodes other than `n` whose transmission is on the line. -/
def State.others (s : State) (n : Node) : List Node := s.onLine.filter (· ≠ n)

/-- Puts the frame `f` of the node `n` on the bus: every other attached node is to receive it (00_scope.md rule R16). If
other transmissions are on the line, they all overlap, at every node. -/
def State.hear (s : State) (n : Node) (f : List Byte) : State :=
  { s.mapWires (fun m _ w => if m = n then Wire.garble (s.others n) w else Wire.hear n f (s.others n) w) with
    onLine := n :: s.others n }

/-- The bus takes over what the node `n` handed to its Transport in this step (40_framer_crc.md rule R177). -/
def State.transmit (s : State) (n : Node) : State :=
  match (s.framer n).bind (·.outbox) with
  | none => s
  | some f => (s.mapFramer n (fun fr => { fr with outbox := none })).hear n f

/-- The Transport of `n` has handed the frame to the line. -/
def State.sendEnds (s : State) (n : Node) : State := (s.mapWires (fun _ _ => Wire.endOf n)).leaveLine n

/-- The number of a node among the draws of free values. -/
def nodeIndex : Node → Nat
  | .controller => 0
  | .slot k => k + 1

/-- The frame that `n` is transmitting is given up: each other node that has not received it whole gets a prefix of it, of
a free length, and then a silence of its own T_GAP ticks (rule R118 (b), 70_reset_and_hazards.md rule R403,
41_extension_fsm.md rule R234; log entry 6). -/
def State.giveUp (s : State) (n : Node) : State :=
  (s.mapWires (fun m p => Wire.giveUp n (Config.abandonedLength s.draws (nodeIndex m)) p.tGap.toNat)).leaveLine n

/-- The transmission in progress at the node `n`, if any, is abandoned (70_reset_and_hazards.md rule R403). -/
def State.abandon (s : State) (n : Node) : State := if s.busy n then s.giveUp n else s

end Sys2Proof.Machine
end

