-- ==== Sys2Proof/Machine/Arbiter.lean ====
section
/-! DEFINITION. `arbitrate()` (42_controller_registration.md rule R260) and the end of a step. -/

namespace Sys2Proof.Machine

/-- `arbitrate()` of rule R260: in IDLE the lowest pending slot starts its registration, else the latched command is
decoded and run (43_controller_commands.md rules R291, R292). -/
def State.arbitrate (s : State) : Host.Outcome State Fault Refusal :=
  if s.ctrl.cst ≠ .idle then .next s
  else match s.ctrl.lowestPending with
  | some k => .next (s.mapCtrl (fun c => c.startRegistration k))
  | none =>
      if s.ctrl.cmdValid then
        exec (decodeCommand s.ctrl.cmdLatched) { s.mapCtrl (fun c => c.takeCommand) with active := .controller }
      else .next s

/-- What follows an event at the node `n` in its step, which began in `before`: `arbitrate()` at the Controller (60_exceptions.md
rule R378), then the bus takes over a frame that was sent and the lines are driven (44_line_arbiter.md rule R343). -/
def endStep (before : State) (n : Node) (o : Host.Outcome State Fault Refusal) : Host.Outcome State Fault Refusal :=
  match o with
  | .fault r => .fault r
  | .refused r => .refused r
  | .next t =>
      match if n = .controller then t.arbitrate else .next t with
      | .fault r => .fault r
      | .refused r => .refused r
      | .next u => .next ((u.transmit n).driveLines before)

end Sys2Proof.Machine
end

