-- ==== Sys2Proof/Machine/Events.lean ====
section
/-! DEFINITION. The events (00_scope.md rule R14): which comes next, and what each does. -/

namespace Sys2Proof.Machine

/-! ### The order of simultaneous events -/

/-- The place of an event among simultaneous ones (60_exceptions.md rule R372): a Transport's end of transmission, then
received bytes, then host accesses, then the tick. What the lines, the medium and the reset inputs do comes first and a
direct call of a framer operation stands with the host accesses (log entry 8). -/
def eventRank : Event → Nat
  | .lineArrives _ _ => 0
  | .cut _ => 0
  | .noiseEnds _ => 0
  | .reset _ => 0
  | .attach _ _ => 0
  | .detach _ => 0
  | .txDone _ => 1
  | .txError _ => 1
  | .rxByte _ _ => 2
  | .deliver _ => 2
  | .corrupt _ _ => 2
  | .memRead _ _ _ => 3
  | .memWrite _ _ _ _ => 3
  | .framer _ _ => 3
  | .strobe => 4
  | .tick _ => 4

/-- The first event of the lowest rank, and the others in their order. -/
def takeFirst : List Event → Option (Event × List Event)
  | [] => none
  | e :: es =>
      match takeFirst es with
      | none => some (e, [])
      | some (e', es') => if eventRank e ≤ eventRank e' then some (e, es) else some (e', e :: es')

/-- The waiting instants without an empty first one. -/
def pushInstant (es : List Event) (rest : List (List Event)) : List (List Event) :=
  match es with
  | [] => rest
  | e :: es => (e :: es) :: rest

/-- Takes the next event of the instant `es`, after which the instants `rest` wait; none when the instant is empty. -/
def State.takeFrom (s : State) (es : List Event) (rest : List (List Event)) : Option Event × State :=
  match takeFirst es with
  | none => (none, { s with inputs := rest })
  | some (e, es') => (some e, { s with inputs := pushInstant es' rest })

/-- Takes the next event: from the first waiting instant, else from the next instant of the environment. -/
def State.nextEvent (s : State) : Option Event × State :=
  match s.inputs with
  | es :: rest => s.takeFrom es rest
  | [] => State.takeFrom { s with instant := s.instant + 1 } (Config.environment s.instant) []

/-! ### Received bytes -/

/-- What a framer does with a frame it delivers (40_framer_crc.md rule R179): a frame that decodes to an instruction
runs it, another decode error goes to the state machine. -/
def State.deliverFrame (s : State) (p : Params) (bytes : List Byte) : Host.Outcome State Fault Refusal :=
  match decodeFrame p bytes with
  | .ok i => exec i s
  | .error reason => .next (s.decodeFailed reason)

/-- `RxByte(b)` at the node `n` (40_framer_crc.md rules R178, R179, R181). A byte that a transmitting node discards is no
step of its core. -/
def State.receive (s : State) (n : Node) (b : Byte) : Host.Outcome State Fault Refusal :=
  match s.framer n, s.params n with
  | some fr, some p =>
      if fr.txBusy then .next s
      else
        let s1 := { s.mapFramer n (fun _ => (fr.rxByte b).1) with active := n }
        match (fr.rxByte b).2 with
        | none => endStep s n (.next s1)
        | some bytes => endStep s n (s1.deliverFrame p bytes)
  | _, _ => .next s

/-- A byte of a frame comes in at the node `n` and leaves the wire `w`. -/
def State.arrives (s : State) (n : Node) (b : Byte) (w : Wire) : Host.Outcome State Fault Refusal :=
  (s.takeByte n w).receive n b

/-- The medium delivers the next byte of the frame that comes in, and only while the node is not transmitting (20_memory.md
rule R118). -/
def State.deliverByte (s : State) (n : Node) : Host.Outcome State Fault Refusal :=
  if s.busy n then .next s
  else match Wire.deliver (s.wire n) with
  | none => .next s
  | some (b, w) => s.arrives n b w

/-- The medium delivers another byte in its place. -/
def State.corruptByte (s : State) (n : Node) (b : Byte) : Host.Outcome State Fault Refusal :=
  if s.busy n then .next s
  else match Wire.corrupt b (s.wire n) with
  | none => .next s
  | some w => s.arrives n b w

/-- A byte that no frame brings. -/
def State.noiseByte (s : State) (n : Node) (b : Byte) : Host.Outcome State Fault Refusal :=
  if Wire.noisy (s.wire n) then s.receive n b else .next s

/-- The frame that comes in at a node is cut; its T_GAP ticks of silence begin. -/
def State.cutFrame (s : State) (n : Node) : State :=
  match s.params n with
  | none => s
  | some p => s.setWire n (Wire.cut p.tGap.toNat (s.wire n))

/-! ### The ends of a transmission, ticks, host accesses -/

/-- `TxDone` at the node `n`; only a transmission in progress can end (40_framer_crc.md rule R177, 70_reset_and_hazards.md
rule R403). -/
def State.txDone (s : State) (n : Node) : Host.Outcome State Fault Refusal :=
  if s.busy n then
    endStep s n (.next { (s.sendEnds n).mapNode n Controller.txDone Extension.endSend with active := n })
  else .next s

/-- `TxError` at the node `n`: what is left of its frame is lost (41_extension_fsm.md rule R234, 92_eei_decisions.md
D19). -/
def State.txError (s : State) (n : Node) : Host.Outcome State Fault Refusal :=
  if s.busy n then
    endStep s n (.next { (s.giveUp n).mapNode n Controller.txError Extension.endSend with
      active := n, draws := s.draws + 1 })
  else .next s

/-- The level of SEL at the board in slot `k`. -/
def State.selLevel (s : State) (k : Nat) : Bool := (s.slots[k]?.map (·.sel.level)).getD false

/-- A tick passes in silence at a node whose frame was cut (20_memory.md rule R118 (b)). -/
def State.silentTick (s : State) (n : Node) : State := s.setWire n (Wire.silentTick (s.wire n))

/-- A core stands at the node. -/
def State.present (s : State) (n : Node) : Bool := (s.params n).isSome

/-- The nodes with a core: the Controller, then the attached boards. -/
def State.cores (s : State) : List Node :=
  .controller :: ((List.range s.slots.length).map Node.slot).filter s.present

/-- The tick source delivers `Tick` to every core (60_exceptions.md rule R385): each takes its own step, before anything
else happens. -/
def State.strobe (s : State) : State := { s with inputs := s.cores.map .tick :: s.inputs }

/-- `Tick` at the node `n` (60_exceptions.md rule R378). -/
def State.tick (s : State) (n : Node) : Host.Outcome State Fault Refusal :=
  match n with
  | .controller =>
      endStep s n (.next { (s.silentTick n).mapCtrl (fun c => c.tick s.readyLevels) with active := n })
  | .slot k => endStep s n (.next { (s.silentTick n).mapBoard k (fun e => e.tick (s.selLevel k)) with active := n })

/-- `MemRead(addr, n)` (20_memory.md rule R101). A legal access is a step of the core (rule R105). -/
def State.memRead (s : State) (n : Node) (addr : BitVec 12) (size : Nat) : Host.Outcome State Fault Refusal :=
  if !s.present n then .next s
  else if legalAccess addr size then
    endStep s n (.next { s with reply := { error := false, data := s.wordAt n addr.toNat }, active := n })
  else .next { s with reply := { error := true, data := 0 } }

/-- `MemWrite(addr, n, v)` (rule R101). -/
def State.memWrite (s : State) (n : Node) (addr : BitVec 12) (size : Nat) (v : Word) :
    Host.Outcome State Fault Refusal :=
  if !s.present n then .next s
  else if legalAccess addr size then
    endStep s n
      (.next { s.mapNode n (fun c => c.applyWrite addr.toNat v) (fun e => e.applyWrite addr.toNat v) with
        reply := { error := false, data := 0 }
        active := n })
  else .next { s with reply := { error := true, data := 0 } }

/-! ### The bus, the lines and reset -/

/-- `n` bytes the spec leaves unspecified, of the draw `d`, from position `a` on (log entry 5). -/
def unspecifiedBytes (d : Nat) : Nat → Nat → List Byte
  | _, 0 => []
  | a, n + 1 => Config.unspecifiedByte d a :: unspecifiedBytes d (a + 1) n

/-- `rx_buf` after a reset event. -/
def unspecifiedRx (d : Nat) : Memory := Memory.writeBytes [] 0 (unspecifiedBytes d 0x1000 256)

/-- The Controller after a reset event, with the Ready-Lines at `levels`. -/
def resetController (p : Params) (levels : BitVec 32) (d : Nat) : Controller :=
  Controller.reset p (levels &&& lowMask p.nslots) (unspecifiedRx d) (unspecifiedBytes d 0x2000 256)
    (Memory.writeBytes [] 0x100 (unspecifiedBytes d 0x100 512))

/-- A board after a reset event, with its Selection-Line at `sel`. -/
def resetExtension (p : Params) (sel : Bool) (d : Nat) : Extension :=
  Extension.reset p sel (unspecifiedRx d) (Memory.writeBytes [] 0x100 (unspecifiedBytes d 0x100 768))

/-- The core at `n` after its reset input wrote the values and sampled its lines; its transmission is abandoned
(70_reset_and_hazards.md rules R401..R404, without the `arbitrate()` of rule R401). -/
def State.resetCore (s : State) (n : Node) : State :=
  { (s.abandon n).mapNode n (fun c => resetController c.params s.readyLevels s.draws)
      (fun e => resetExtension e.params (match n with | .slot k => s.selLevel k | .controller => false) s.draws) with
    active := n, draws := s.draws + 1 }

/-- The reset input of the core at `n` (rules R400..R404). Its lines are driven to their reset levels first, every SEL low
and the board's READY high; what `arbitrate()` then asserts is driven after that (rule R401). -/
def State.resetNode (s : State) (n : Node) : Host.Outcome State Fault Refusal :=
  if !s.present n then .next s
  else
    let low := (s.resetCore n).driveLines s
    endStep low n (.next low)

/-- A board is inserted in slot `k` (60_exceptions.md rule R382): it is reset. An occupied slot takes none, and no board is
built with parameters out of range (00_scope.md rule R9). -/
def State.attach (s : State) (k : Nat) (p : Params) : Host.Outcome State Fault Refusal :=
  if s.slots.length ≤ k ∨ s.present (.slot k) = true ∨ ¬p.ok then .next s
  else
    let s1 := s.mapSlot k (fun sl =>
      { sl with board := some (resetExtension p sl.sel.level s.draws), wire := [] })
    endStep s (.slot k) (.next { s1 with active := .slot k, draws := s.draws + 1 })

/-- The board in slot `k` is removed: its Ready-Line is no longer driven, and nothing more is delivered to it. -/
def State.detach (s : State) (k : Nat) : Host.Outcome State Fault Refusal :=
  if !s.present (.slot k) then .next s
  else
    let s1 := (s.abandon (.slot k)).mapSlot k (fun sl => { sl with board := none, wire := [] })
    .next (State.driveLines { s1 with draws := s.draws + 1 } s)

/-- The oldest level driven on a line arrives at its other end (44_line_arbiter.md rule R343). -/
def State.lineArrives (s : State) (line : LineName) (k : Nat) : State :=
  match line with
  | .ready => s.mapSlot k (fun sl => { sl with ready := sl.ready.arrive })
  | .sel => s.mapSlot k (fun sl => { sl with sel := sl.sel.arrive })

/-- What one event does. -/
def State.handle (s : State) (e : Event) : Host.Outcome State Fault Refusal :=
  match e with
  | .txDone n => s.txDone n
  | .txError n => s.txError n
  | .rxByte n b => s.noiseByte n b
  | .deliver n => s.deliverByte n
  | .corrupt n b => s.corruptByte n b
  | .cut n => .next (s.cutFrame n)
  | .noiseEnds n => .next (s.setWire n (Wire.noiseEnds (s.wire n)))
  | .memRead n addr size => s.memRead n addr size
  | .memWrite n addr size v => s.memWrite n addr size v
  | .strobe => .next s.strobe
  | .tick n => s.tick n
  | .lineArrives line k => .next (s.lineArrives line k)
  | .reset n => s.resetNode n
  | .attach k p => s.attach k p
  | .detach k => s.detach k
  | .framer n op => exec op.instr { s with active := n }

/-- One step: the next event, processed to completion (00_scope.md rule R14); an instant without events changes
nothing. -/
def State.stepEvent (s : State) : Host.Outcome State Fault Refusal :=
  match s.nextEvent with
  | (none, s1) => .next s1
  | (some e, s1) => s1.handle e

/-! ### Placing an instruction -/

/-- The node whose handling a packet type's row of the opcode table names: the Controller for responses, the board in
slot 0 for the others (log entry 9). -/
def tableNode (t : Byte) : Node :=
  if t = 0x02 ∨ t = 0x04 ∨ t = 0x05 ∨ t = 0x09 ∨ t = 0x0B then .controller else .slot 0

/-- The receiver of `n` holds all bytes of the frame but the last, which the Transport delivers next, with nothing else
on its way. -/
def State.placeFrame (s : State) (n : Node) (bytes : List Byte) : State :=
  { (s.setWire n []).mapFramer n (fun fr =>
      { fr with rxBuf := Memory.writeBytes [] 0 (bytes.take 255), rxCount := 255, txBusy := false }) with
    inputs := [.rxByte n (bytes.getD 255 0)] :: s.inputs }

/-- The Controller is free to start a command, and the host writes it next. -/
def State.placeCommand (s : State) (w : Word) : State :=
  { s.mapCtrl (fun c => { c with cst := .idle, pending := 0, cmdValid := false }) with
    inputs := [.memWrite .controller 0x008 4 w] :: s.inputs }

/-- The state whose next step runs the instruction of a word of the opcode table. -/
def State.placeWord (s : State) (nbits w : Nat) : State :=
  let n := tableNode (BitVec.ofNat 8 w)
  match tableCode ((s.params n).getD s.ctrl.params) nbits w with
  | .frame bytes => s.placeFrame n bytes
  | .command word => s.placeCommand word

end Sys2Proof.Machine
end

