-- ==== Sys2Proof/Safety.lean ====
section
/-! DEFINITION. What a good state is: the invariants the spec states for each core and for the bus, in the terms the
statements use. -/

namespace Sys2Proof.Machine

/-! ### The vocabulary of the statements -/

/-- `s` with the core `e` as the board in slot `k`; an empty slot stays empty. -/
def State.setBoard (s : State) (k : Nat) (e : Extension) : State := s.mapBoard k (fun _ => e)

/-- The bus after the node `n` received a byte of the transmission `t`, of which `bs` is left; its wire is now `w`. With
its last byte received, a transmission that was on the line has left it. -/
def State.received (s : State) (n : Node) (t : Transmission) (bs : List Byte) (w : Wire) : State :=
  { s.setWire n w with
    onLine := if t.ended = false ∧ bs = [] then s.onLine.filter (· ≠ t.sender) else s.onLine }

/-- The event brings the byte `b` to the node `n` and leaves the bus as given (20_memory.md rule R118): a byte where no
frame comes in or transmissions overlap, the next byte of a frame, or another byte in its place. -/
inductive State.brings (s : State) (n : Node) (b : Byte) : Event → State → Prop where
  | noise (h : s.wire n = []) : State.brings s n b (.rxByte n b) s
  | overlapped {t : Transmission} {w : Wire} (h : s.wire n = t :: w) (hc : t.carriage = .garbled) :
      State.brings s n b (.rxByte n b) s
  | next {t : Transmission} {w : Wire} {bs : List Byte} (h : s.wire n = t :: w) (hb : t.bytes = b :: bs)
      (hc : t.carriage ≠ .garbled) :
      State.brings s n b (.deliver n) (s.received n t bs (Transmission.before { t with bytes := bs } w))
  | changed {t : Transmission} {w : Wire} {b0 : Byte} {bs : List Byte} (h : s.wire n = t :: w)
      (hb : t.bytes = b0 :: bs) (hc : t.carriage = .intact ∨ t.carriage = .damaged) :
      State.brings s n b (.corrupt n b) (s.received n t bs (Transmission.before
        { t with bytes := bs, carriage := if b = b0 then t.carriage else .damaged } w))

/-- A board's framer once it has handed the response of type code `t` with the payload bytes `payload` to its Transport
(41_extension_fsm.md rule R232, 30_encoding.md rules R130, R134). -/
def Extension.sending (e : Extension) (t : Byte) (payload : List Byte) : Framer :=
  e.framer.send (frameBytes e.params 0x00 t (payload ++ List.replicate (252 - payload.length) 0x00))

/-- A board after it answered with `Error{code}` (41_extension_fsm.md rule R231). -/
def Extension.sendsError (e : Extension) (code : Byte) : Extension :=
  { e with framer := e.sending 0x05 [code], events := e.events ||| 0b1000 }

/-- The registers a command's completion writes, with `len` data bytes in RXBUF (43_controller_commands.md rule
R293). -/
def Controller.finished (c : Controller) (result : ResultCode) (len info : Byte) : Controller :=
  { c with
    result := result
    respLen := len
    respInfo := info
    expType := 0x00
    timerArmed := false
    timerCount := 0
    done := true
    cst := .idle }

/-- The `n` bytes of a buffer from the offset `base` on, the first one first. -/
def bufferBytes (m : Memory) (base n : Nat) : List Byte := (List.range n).map (fun j => Memory.read m (base + j))

/-- `body` is the well-formed body of type `t` with the fields `f` (30_encoding.md rule R143). -/
def fitsBody (t : PacketType) (body : List Byte) (f : Payload) : Prop :=
  f.ptype = t ∧ f.wellFormed = true ∧
    (body = serialize f ++ List.replicate (252 - (serialize f).length) 0x00 ∨
      (f = .initProbeResponse 0x00 0x00 ∧ ∃ x : Byte, body = 0x00 :: x :: List.replicate 250 0x00))

/-- The framer after the bytes `bs`, and the frames it delivered. -/
def Framer.receive : Framer → List Byte → Framer × List (List Byte)
  | fr, [] => (fr, [])
  | fr, b :: bs =>
    let one := fr.rxByte b
    let more := one.1.receive bs
    (more.1, one.2.toList ++ more.2)

/-- The framer after `n` ticks, and the byte counts of the partial frames it gave up. -/
def Framer.gapTicks (tGap : BitVec 16) : Nat → Framer → Framer × List Nat
  | 0, fr => (fr, [])
  | n + 1, fr =>
    let one := fr.gapTick tGap
    let more := Framer.gapTicks tGap n one.1
    (more.1, one.2.toList ++ more.2)

/-! ### The Controller -/

/-- The Controller is in a sequence for a slot: a registration, or a PROBE (44_line_arbiter.md rule R347). -/
abbrev Controller.inSlotSequence (c : Controller) : Prop :=
  c.cst.isReg = true ∨ (c.cst.isCmd = true ∧ c.curOpc = 0x05)

/-- `sel_out` as the sequence in progress asks for it: the slot of that sequence, or none (rules R347, R348). -/
def Controller.expectedSel (c : Controller) : BitVec 32 :=
  if c.inSlotSequence then 1#32 <<< c.curSlot.toNat else 0

/-- The invariants of the Controller between two steps. -/
structure Controller.Inv (c : Controller) : Prop where
  /-- the parameters are in the ranges of 00_scope.md rule R9. -/
  params : c.params.ok
  /-- SEL is asserted exactly for the slot of the sequence in progress (44_line_arbiter.md rules R347, R348). -/
  sel : c.selOut = c.expectedSel
  /-- and that slot exists. -/
  slot : c.inSlotSequence → c.curSlot.toNat < c.params.nslots
  /-- a transmission is in progress exactly in REG_TX and CMD_TX (42_controller_registration.md rule R260). -/
  busy : c.framer.txBusy = true ↔ c.cst = .regTx ∨ c.cst = .cmdTx
  /-- the timer runs exactly in REG_WAIT and CMD_WAIT (60_exceptions.md rule R383). -/
  timer : c.timerArmed = true ↔ c.cst = .regWait ∨ c.cst = .cmdWait
  /-- and it has at least 1 and at most T_TIMEOUT ticks left (rule R384). -/
  timerLeft : c.timerArmed = true → 1 ≤ c.timerCount.toNat ∧ c.timerCount.toNat ≤ c.params.tTimeout.toNat
  /-- a settle wait has at least 1 and at most T_SETTLE ticks left (rule R384). -/
  settleLeft : c.cst = .regSettle ∨ c.cst = .cmdSettle →
    1 ≤ c.settleCount.toNat ∧ c.settleCount.toNat ≤ c.params.tSettle.toNat
  /-- CMD_SETTLE belongs to PROBE (10_state.md rule R31). -/
  cmdSettle : c.cst = .cmdSettle → c.curOpc = 0x05
  /-- `attempts` is at most R_RETRIES + 1, and at most R_RETRIES while an exchange goes on (10_state.md rule R32). -/
  attempts : c.attempts.toNat ≤ c.params.rRetries.toNat + 1
  attemptsGoing : c.cst ≠ .idle → c.attempts.toNat ≤ c.params.rRetries.toNat
  /-- `next_id` holds only 0x01..0xFF (10_state.md rule R37). -/
  nextId : c.nextId ≠ 0
  /-- the entries 0x00 and 0xFF are always ABSENT (10_state.md rule R36). -/
  masterAbsent : (c.record 0x00).status = .absent
  broadcastAbsent : (c.record 0xFF).status = .absent
  /-- no ID that was not given out has a record (42_controller_registration.md rule R275 (d)). -/
  freeAbsent : ∀ i : Byte, c.nextId.toNat ≤ i.toNat → (c.record i).status = .absent
  /-- a registration is for an ID that was given out. -/
  regId : c.cst.isReg = true → assignable c.curId ∧ c.curId.toNat < c.nextId.toNat
  /-- an exchange with an extension is for an ID that was given out; a RESTART may be for all. -/
  cmdId : c.cst.isCmd = true → c.curOpc ≠ 0x05 →
    (c.curOpc = 0x04 ∧ c.curId = 0xFF) ∨ (assignable c.curId ∧ c.curId.toNat < c.nextId.toNat)
  /-- slots from NSLOTS on are never asserted and never pending (10_state.md rule R35). -/
  readyBits : c.readySync &&& ~~~lowMask c.params.nslots = 0
  pendingBits : c.pending &&& ~~~lowMask c.params.nslots = 0
  /-- the buffers keep the canonical form. -/
  mem : Memory.wf c.mem
  rxBuf : Memory.wf c.framer.rxBuf

/-! ### The Extension -/

/-- The invariants of an Extension between two steps. -/
structure Extension.Inv (e : Extension) : Prop where
  /-- the parameters are in the ranges of 00_scope.md rule R9. -/
  params : e.params.ok
  /-- `ready_out` = 1 exactly when `EST` ≠ REGISTERED (10_state.md rule R58). -/
  ready : e.readyOut = true ↔ e.est ≠ .registered
  /-- while unregistered, `EST` = SELECTED exactly when `sel_sync` = 1 (10_state.md rule R57). -/
  selected : e.est ≠ .registered → (e.est = .selected ↔ e.selSync = true)
  /-- `ext_id` is 0x00 while unregistered (10_state.md rule R58). -/
  anonymous : e.est ≠ .registered → e.extId = 0x00
  /-- and an assignable ID while REGISTERED (30_encoding.md rule R131). -/
  named : e.est = .registered → assignable e.extId
  /-- the buffers keep the canonical form. -/
  mem : Memory.wf e.mem
  rxBuf : Memory.wf e.framer.rxBuf

/-! ### The bus -/

/-- The invariants of the bus between two steps. -/
structure State.Inv (s : State) : Prop where
  ctrl : s.ctrl.Inv
  boards : ∀ k e, s.board k = some e → e.Inv
  /-- there are NSLOTS slots (00_scope.md rule R9). -/
  slots : s.slots.length = s.ctrl.params.nslots
  /-- the bus has taken over every frame that was sent. -/
  ctrlSent : s.ctrl.framer.outbox = none
  boardsSent : ∀ k e, s.board k = some e → e.framer.outbox = none

/-! ### Runs -/

/-- `t` follows `s` in one step. -/
def State.stepsTo (s t : State) : Prop := step s = .next t

/-- `t` is reached from `s` by steps. -/
inductive State.reaches : State → State → Prop where
  | refl (s : State) : State.reaches s s
  | tail {s t u : State} : State.reaches s t → t.stepsTo u → State.reaches s u

/-- A run: each state follows the one before it. -/
def isRun (run : Nat → State) : Prop := ∀ i, (run i).stepsTo (run (i + 1))

/-- How often the event `e` happens in the `m` steps of a run from its `i`-th state on. -/
def eventsIn (e : Event) (run : Nat → State) (i : Nat) : Nat → Nat
  | 0 => 0
  | m + 1 => eventsIn e run i m + if (run (i + m)).nextEvent.1 = some e then 1 else 0

/-! ### What the spec assumes of the platform -/

/-- The tick source of 60_exceptions.md rule R385: the run falls into rounds without end, and in each round every core that
is there throughout ticks once, in any order. So ticks occur infinitely often, and at every core. -/
def keepsTicks (run : Nat → State) : Prop :=
  isRun run ∧ ∃ round : Nat → Nat,
    (∀ n, eventsIn (.tick n) run 0 (round 0) = 0) ∧
    ∀ r, round r < round (r + 1) ∧ ∀ n,
      eventsIn (.tick n) run (round r) (round (r + 1) - round r) ≤ 1 ∧
      ((∀ j, round r ≤ j → j ≤ round (r + 1) → (run j).present n = true) →
        eventsIn (.tick n) run (round r) (round (r + 1) - round r) = 1)

/-- The event ends the transmission in progress at `n`. -/
abbrev endsSend (n : Node) (e : Event) : Prop :=
  e = .txDone n ∨ e = .txError n ∨ e = .reset n ∨ ∃ k, n = .slot k ∧ e = .detach k

/-- The bound TX_BOUND of 00_scope.md rule R9 and 60_exceptions.md rule R384: in this run no transmission goes on for more
than TX_BOUND ticks of its node. -/
def keepsTxBound (run : Nat → State) : Prop :=
  1 ≤ Config.txBound ∧ isRun run ∧
  ∀ (n : Node) (i m : Nat),
    (∀ j, j < m → (run (i + j)).busy n = true ∧ ∀ e, (run (i + j)).nextEvent.1 = some e → ¬endsSend n e) →
    eventsIn (.tick n) run i m ≤ Config.txBound

/-- The line `line` of a slot. -/
def Slot.line (sl : Slot) : LineName → Line
  | .ready => sl.ready
  | .sel => sl.sel

/-- The node that samples a line of slot `k`. -/
def sampledBy (k : Nat) : LineName → Node
  | .ready => .controller
  | .sel => .slot k

/-- The line latency L of 70_reset_and_hazards.md rule R416: in this run the receiving core samples a level at the latest on
its L-th tick after the level was driven, so fewer than L ticks pass while it is in flight. -/
def keepsLineLatency (run : Nat → State) : Prop :=
  1 ≤ Config.lineLatency ∧ isRun run ∧
  ∀ (line : LineName) (k i m : Nat) (sl : Slot), (run i).slots[k]? = some sl →
    eventsIn (.lineArrives line k) run i m < (sl.line line).inFlight.length →
    eventsIn (.tick (sampledBy k line)) run i m < Config.lineLatency

/-- The next event brings the board `e` in slot `k` the last byte of an INIT or INIT_PROBE frame. -/
def State.completesInit (s : State) (k : Nat) (e : Extension) : Prop :=
  s.board k = some e ∧ e.framer.txBusy = false ∧ e.framer.rxCount = 255 ∧
  (Memory.read e.framer.rxBuf 2 = PacketType.init.code ∨ Memory.read e.framer.rxBuf 2 = PacketType.initProbe.code) ∧
  ∃ ev b t, s.nextEvent.1 = some ev ∧ s.brings (.slot k) b ev t

/-- The three conditions of 70_reset_and_hazards.md rule R416, which a platform meets by its L, its frame time and
T_SETTLE. -/
structure MeetsLineTiming (run : Nat → State) : Prop where
  /-- (a) the candidate sees SEL = 1 before the last byte of the Init or Init-Probe frame arrives. -/
  candidateSelected : ∀ i k e, (run i).completesInit k e → (run i).ctrl.selOut.getLsbD k = true → e.selSync = true
  /-- (b) and no board whose SEL has fallen still sees SEL = 1 then. -/
  othersReleased : ∀ i k e, (run i).completesInit k e → (run i).ctrl.selOut.getLsbD k = false → e.selSync = false
  /-- (c) the Controller ticks between two changes of a Ready-Line, so it sees each level. -/
  readyPulses : ∀ i j k, i < j → (run i).nextEvent.1 = some (.lineArrives .ready k) →
    (run j).nextEvent.1 = some (.lineArrives .ready k) → 1 ≤ eventsIn (.tick .controller) run (i + 1) (j - i - 1)

end Sys2Proof.Machine
end

