-- ==== Sys2Proof/Certificates/Slice0/Obligations.lean ====
section
/-! DEFINITION. The statements for the provers. Each docstring names the rules of spec/ it formalises. `s.ctrl` is the
Controller core, `s.board k` the board in slot `k`, and `s.active` the node whose step is in progress: a packet type
runs at the active node, a command at the Controller. -/

open Sys2Proof Sys2Proof.Machine

/-! ### Encodings -/

/-- Every instruction that has an encoding is decoded from it (30_encoding.md rules R130, R132, R133, R150..R153). -/
def Obligations.DecodeOfEncode : Prop :=
  ∀ (p : Params) (i : Instr), i.wellFormed = true → i.isFramerOp = false →
    ∃ code, encode p i = some code ∧ decode p code = .ok i

/-- And every frame or command word that decodes is the encoding of what it decodes to: no two codes give one
instruction, and no accepted bit is dropped. -/
def Obligations.EncodeOfDecode : Prop :=
  (∀ (p : Params) (w : Word), ∃ i, decode p (.command w) = .ok i ∧ encode p i = some (.command w)) ∧
  (∀ (p : Params) (bytes : List Byte) (i : Instr), bytes.length ≤ 256 → decode p (.frame bytes) = .ok i →
    encode p i = some (.frame bytes) ∧ i.wellFormed = true)

/-- 40_framer_crc.md rule R188. The second half is the packet whose id field is not part of the fields. -/
def Obligations.PacketRoundTrip : Prop :=
  (∀ (p : Params) (rid : Byte) (f : Payload), f.wellFormed = true → (serialize f).length ≤ 252 →
    ∃ bytes body, encodePacket p rid f = .ok bytes ∧
      decodePacket p bytes = .ok { version := p.protocolVersion, rid := rid, ptype := f.ptype, body := body } ∧
      parse f.ptype body = some f) ∧
  (∀ (p : Params) (rid id : Byte), ∃ bytes body, encodePacket p rid (.initProbeResponse 0x00 id) = .ok bytes ∧
      decodePacket p bytes =
        .ok { version := p.protocolVersion, rid := rid, ptype := .initProbeResponse, body := body } ∧
      parse .initProbeResponse body = some (.initProbeResponse 0x00 0x00))

/-- 40_framer_crc.md rule R173: with the default CRC, no single-bit error passes decode, and which error is reported. -/
def Obligations.SingleBitErrorDetected : Prop :=
  ∀ (p : Params) (rid : Byte) (f : Payload) (bytes : List Byte) (i j : Nat),
    p.crcPoly = 0x07 → p.crcInit = 0x00 → p.crcXorout = 0x00 → encodePacket p rid f = .ok bytes → i < 256 → j < 8 →
    let received := bytes.modify i (fun b => b ^^^ (1#8 <<< j))
    decodePacket p received =
      .error (if i = 0 then .versionMismatch (received.getD 0 0) else .checksumMismatch (received.getD 255 0))

/-- 40_framer_crc.md rule R172: the residue of a valid frame, and the all-zero frame. -/
def Obligations.CrcResidue : Prop :=
  (∀ (p : Params) (f : List Byte), p.crcXorout = 0x00 → f.length = 256 → f.getD 255 0 = crc8 p (f.take 255) →
    crc8 p f = 0x00) ∧
  (∀ p : Params, p.crcPoly = 0x07 → p.crcInit = 0x00 → p.crcXorout = 0x00 →
    crc8 p (List.replicate 255 0x00) = 0x00 ∧
    (p.protocolVersion ≠ 0x00 → decodePacket p (List.replicate 256 0x00) = .error (.versionMismatch 0x00)) ∧
    (p.protocolVersion = 0x00 → decodePacket p (List.replicate 256 0x00) = .error (.unknownType 0x00 0x00)))

/-! ### The framer operations -/

/-- 40_framer_crc.md rule R170: `crc8`, its loop over the bytes written as a fold, its 8 shifts as an iterate; the empty
string and the check value. That the operation can be called directly, and that its result is the field `framerResult`,
is the model's own choice (log entry 7). -/
def Obligations.Crc8Result : Prop :=
  (∀ (bytes : List Byte) (s : State) (p : Params), s.params s.active = some p →
    exec (.crc8 bytes) s = .next { s with framerResult := some (.crc
      (bytes.foldl
        (fun c b => (fun x : Byte => if x.getLsbD 7 then (x <<< 1) ^^^ p.crcPoly else x <<< 1)^[8] (c ^^^ b))
        p.crcInit ^^^ p.crcXorout)) }) ∧
  (∀ p : Params, crc8 p [] = p.crcInit ^^^ p.crcXorout) ∧
  crc8 Params.vectors [0x31, 0x32, 0x33, 0x34, 0x35, 0x36, 0x37, 0x38, 0x39] = 0xF4

/-- 40_framer_crc.md rules R174 and R175: `encode` and `serialize`, and the type codes (30_encoding.md rule R132). That `encode` can be called directly, and that its
result is the field `framerResult`, is the model's own choice (log entry 7). -/
def Obligations.EncodeResult : Prop :=
  (∀ (rid : Byte) (f : Payload) (s : State) (p : Params), s.params s.active = some p →
    (252 < (serialize f).length →
      exec (.encode rid f) s = .next { s with framerResult := some (.formatError (serialize f).length) }) ∧
    ((serialize f).length ≤ 252 →
      ∃ f0, f0 = [p.protocolVersion, rid, f.ptype.code] ++ serialize f ++
          List.replicate (252 - (serialize f).length) 0x00 ∧
        exec (.encode rid f) s = .next { s with framerResult := some (.frame (f0 ++ [crc8 p f0])) } ∧
        (f0 ++ [crc8 p f0]).length = 256)) ∧
  serialize .initProbe = [] ∧ serialize .acknowledge = [] ∧ serialize .restart = [] ∧ serialize .metrics = [] ∧
  serialize .configureOptions = [] ∧ (∀ id, serialize (.init id) = [id]) ∧
  (∀ status id, serialize (.initProbeResponse status id) = [status, if status = 0x01 then id else 0x00]) ∧
  (∀ code, serialize (.error code) = [code]) ∧
  (∀ data, serialize (.configure data) = BitVec.ofNat 8 data.length :: data) ∧
  (∀ data, serialize (.metricsResponse data) = BitVec.ofNat 8 data.length :: data) ∧
  (∀ data, serialize (.configureOptionsResponse data) = BitVec.ofNat 8 data.length :: data) ∧
  (PacketType.initProbe.code = 0x01 ∧ PacketType.initProbeResponse.code = 0x02 ∧ PacketType.init.code = 0x03 ∧
    PacketType.acknowledge.code = 0x04 ∧ PacketType.error.code = 0x05 ∧ PacketType.restart.code = 0x06 ∧
    PacketType.configure.code = 0x07 ∧ PacketType.metrics.code = 0x08 ∧ PacketType.metricsResponse.code = 0x09 ∧
    PacketType.configureOptions.code = 0x0A ∧ PacketType.configureOptionsResponse.code = 0x0B)

/-- 40_framer_crc.md rule R183: `decode`, its checks in order; and the codes and infos of the four reasons
(60_exceptions.md rule R362). That `decode` can be called directly, and that its result is the field `framerResult`, is
the model's own choice (log entry 7). -/
def Obligations.DecodeResult : Prop :=
  (∀ (bytes : List Byte) (s : State) (p : Params), s.params s.active = some p → bytes.length ≤ 256 →
    let answers := fun r : FramerResult => exec (.decode bytes) s = .next { s with framerResult := some r }
    if bytes.length < 256 then answers (.decodeError (.lengthMismatch bytes.length))
    else if bytes.getD 0 0 ≠ p.protocolVersion then answers (.decodeError (.versionMismatch (bytes.getD 0 0)))
    else if crc8 p (bytes.take 255) ≠ bytes.getD 255 0 then
      answers (.decodeError (.checksumMismatch (bytes.getD 255 0)))
    else if ¬(0x01 ≤ (bytes.getD 2 0).toNat ∧ (bytes.getD 2 0).toNat ≤ 0x0B) then
      answers (.decodeError (.unknownType (bytes.getD 1 0) (bytes.getD 2 0)))
    else ∃ t : PacketType, t.code = bytes.getD 2 0 ∧
      answers (.packet
        { version := bytes.getD 0 0, rid := bytes.getD 1 0, ptype := t, body := (bytes.drop 3).take 252 })) ∧
  (∀ n, (DecodeError.lengthMismatch n).code = 1 ∧ (DecodeError.lengthMismatch n).info = .inl n) ∧
  (∀ v, (DecodeError.versionMismatch v).code = 2 ∧ (DecodeError.versionMismatch v).info = .inl v.toNat) ∧
  (∀ c, (DecodeError.checksumMismatch c).code = 3 ∧ (DecodeError.checksumMismatch c).info = .inl c.toNat) ∧
  (∀ r t, (DecodeError.unknownType r t).code = 4 ∧ (DecodeError.unknownType r t).info = .inr (r, t))

/-- 40_framer_crc.md rule R187 against 30_encoding.md rule R143: `parse` gives the fields of a well-formed body and
Malformed for every other body. That `parse` can be called directly, and that its result is the field `framerResult`, is
the model's own choice (log entry 7). -/
def Obligations.ParseResult : Prop :=
  ∀ (t : PacketType) (body : List Byte) (s : State) (p : Params), s.params s.active = some p → body.length = 252 →
    (∀ f, fitsBody t body f → exec (.parse t body) s = .next { s with framerResult := some (.fields f) }) ∧
    ((∀ f, ¬fitsBody t body f) → exec (.parse t body) s = .next { s with framerResult := some .malformed })

/-- Words of 95_test_vectors.md section 0.1 and 30_encoding.md rule R151 decode to what they stand for, with the parameters
that file uses (log entry 1). -/
def Obligations.DecodingSanity : Prop :=
  decode Params.vectors (.frame ([0x01, 0xFF, 0x03, 0x01] ++ List.replicate 251 0x00 ++ [0x65])) =
    .ok (.init 0xFF (0x01 :: List.replicate 251 0x00)) ∧
  decode Params.vectors (.frame ([0x01, 0x00, 0x04] ++ List.replicate 252 0x00 ++ [0x6A])) =
    .ok (.acknowledge 0x00 (List.replicate 252 0x00)) ∧
  decode Params.vectors (.frame ([0x01, 0x03, 0x0C] ++ List.replicate 252 0x00 ++ [0xB3])) =
    .ok (.unassigned0C 0b00 0x03 (List.replicate 252 0x00)) ∧
  decode Params.vectors (.frame ([0x01, 0xFF, 0x03, 0x01] ++ List.replicate 251 0x00 ++ [0x64])) =
    .error (.checksumMismatch 0x64) ∧
  decode Params.vectors (.command 0x00030102) = .ok (.cmdConfigure 0x01 0x03 0x00) ∧
  decode Params.vectors (.command 0x0000FF04) = .ok (.cmdRestart 0xFF 0x00 0x00) ∧
  decode Params.vectors (.command 0x00000107) = .ok (.reserved07 0x01 0x00 0x00)

/-! ### The step -/

/-- A step takes one event and runs it. (1) The byte that completes a frame which decodes to `i`, however the medium
brings it: the receiver is emptied, the node becomes active, and the step is `exec i` followed by the end of the step; a
frame that does not decode is reported with its reason. (2) `arbitrate()` of a free Controller runs the instruction of
the latched word, with the latch freed. (3) A CMD write that is accepted latches the word, and the end of that step
arbitrates. (4) A framer operation that is called runs at the node it is called on. (5) A tick is the tick of the core at
the node, with the levels its lines have there; the strobe gives a tick to the Controller and to every attached board,
once each, next (60_exceptions.md rule R385). (6) `TxDone` and `TxError` are the core's while it transmits, and else
nothing. (7) Of the events of one instant the one of the lowest rank is taken, the first of those, and the ranks are those
of rule R372; an empty instant changes nothing; with none waiting the environment gives one. (8) The end of a step is at
the Controller `arbitrate()` (60_exceptions.md rule R378), and then at every node the handing over of a frame to the bus
and the driving of the lines (44_line_arbiter.md rule R343). (The queue of waiting events, the wires, the call of a framer
operation, the events that come without a transmission, the rank of the strobe and of what the medium delivers, and
that the ticks of a strobe come before anything else are the model's own: log entries 3, 7, 8, 11, 12, 13.) -/
def Obligations.StepRunsInstruction : Prop :=
  (∀ (s s' : State) (n : Node) (b : Byte) (ev : Event) (rest : List (List Event)) (fr : Framer) (p : Params),
    s.inputs = [ev] :: rest → s.brings n b ev s' → s.framer n = some fr → s.params n = some p →
    fr.txBusy = false → fr.rxCount = 255 →
    let taken := { s' with inputs := rest }
    let full := { fr with rxBuf := Memory.write fr.rxBuf 255 b, rxCount := 0, gapCount := 0 }
    let frame := Memory.readBytes (Memory.write fr.rxBuf 255 b) 0 256
    (∀ i, decode p (.frame frame) = .ok i →
      step s = endStep taken n (exec i { taken.mapFramer n (fun _ => full) with active := n })) ∧
    (∀ reason, decode p (.frame frame) = .error reason →
      step s = endStep taken n
        (.next (State.decodeFailed { taken.mapFramer n (fun _ => full) with active := n } reason)))) ∧
  (∀ s : State, s.ctrl.cst = .idle → s.ctrl.lowestPending = none → s.ctrl.cmdValid = true →
    s.arbitrate = exec (decodeCommand s.ctrl.cmdLatched)
      { s with ctrl := { s.ctrl with cmdValid := false, curCmd := s.ctrl.cmdLatched }, active := .controller }) ∧
  (∀ (s : State) (w : Word) (rest : List (List Event)),
    s.inputs = [.memWrite .controller 0x008 4 w] :: rest → s.ctrl.busy = false →
    let taken := { s with inputs := rest }
    step s = endStep taken .controller (.next { taken with
      ctrl := { s.ctrl with cmd := w, cmdLatched := w, cmdValid := true, done := false }
      reply := { error := false, data := 0 }
      active := .controller })) ∧
  (∀ (s : State) (n : Node) (op : FramerOp) (rest : List (List Event)),
    s.inputs = [.framer n op] :: rest → step s = exec op.instr { s with inputs := rest, active := n }) ∧
  (∀ (s : State) (rest : List (List Event)),
    let taken := { s with inputs := rest }
    (s.inputs = [.tick .controller] :: rest → step s = endStep taken .controller (.next
      { taken.silentTick .controller with ctrl := s.ctrl.tick s.readyLevels, active := .controller })) ∧
    (∀ k e, s.inputs = [.tick (.slot k)] :: rest → s.board k = some e → step s = endStep taken (.slot k) (.next
      { (taken.silentTick (.slot k)).setBoard k (e.tick (s.selLevel k)) with active := .slot k })) ∧
    (s.inputs = [.strobe] :: rest → ∃ ticks, step s = .next { s with inputs := ticks :: rest } ∧
      ticks.Nodup ∧ ∀ ev, ev ∈ ticks ↔ ∃ n, (s.params n).isSome = true ∧ ev = .tick n)) ∧
  (∀ (s : State) (rest : List (List Event)),
    let taken := { s with inputs := rest }
    (s.inputs = [.txDone .controller] :: rest → s.busy .controller = true →
      step s = endStep taken .controller (.next
        { taken.sendEnds .controller with ctrl := s.ctrl.txDone, active := .controller })) ∧
    (∀ k e, s.inputs = [.txDone (.slot k)] :: rest → s.board k = some e → e.framer.txBusy = true →
      step s = endStep taken (.slot k) (.next
        { (taken.sendEnds (.slot k)).setBoard k { e with framer := { e.framer with txBusy := false } } with
          active := .slot k })) ∧
    (s.inputs = [.txError .controller] :: rest → s.busy .controller = true →
      step s = endStep taken .controller (.next
        { taken.giveUp .controller with
          ctrl := s.ctrl.txError, active := .controller, draws := s.draws + 1 })) ∧
    (∀ k e, s.inputs = [.txError (.slot k)] :: rest → s.board k = some e → e.framer.txBusy = true →
      step s = endStep taken (.slot k) (.next
        { (taken.giveUp (.slot k)).setBoard k { e with framer := { e.framer with txBusy := false } } with
          active := .slot k, draws := s.draws + 1 })) ∧
    (∀ n, s.busy n = false → (s.inputs = [.txDone n] :: rest ∨ s.inputs = [.txError n] :: rest) →
      step s = .next taken)) ∧
  (∀ (s : State) (pre post : List Event) (ev : Event) (rest : List (List Event)),
    s.inputs = (pre ++ ev :: post) :: rest → pre ++ post ≠ [] →
    (∀ e ∈ pre, eventRank ev < eventRank e) → (∀ e ∈ post, eventRank ev ≤ eventRank e) →
    step s = step { s with inputs := [ev] :: (pre ++ post) :: rest }) ∧
  (∀ (n : Node) (b : Byte) (addr : BitVec 12) (size : Nat) (v : Word),
    eventRank (.txDone n) = eventRank (.txError n) ∧ eventRank (.txDone n) < eventRank (.rxByte n b) ∧
    eventRank (.rxByte n b) = eventRank (.deliver n) ∧ eventRank (.rxByte n b) = eventRank (.corrupt n b) ∧
    eventRank (.rxByte n b) < eventRank (.memRead n addr size) ∧
    eventRank (.memRead n addr size) = eventRank (.memWrite n addr size v) ∧
    eventRank (.memRead n addr size) < eventRank (.tick n) ∧ eventRank .strobe = eventRank (.tick n)) ∧
  (∀ (s : State) (rest : List (List Event)), s.inputs = [] :: rest → step s = .next { s with inputs := rest }) ∧
  (∀ s : State, s.inputs = [] →
    step s = step { s with inputs := [Config.environment s.instant], instant := s.instant + 1 }) ∧
  (∀ before t : State,
    (∀ u, t.arbitrate = .next u →
      endStep before .controller (.next t) = .next ((u.transmit .controller).driveLines before)) ∧
    (∀ r, t.arbitrate = .refused r → endStep before .controller (.next t) = .refused r) ∧
    (∀ k, endStep before (.slot k) (.next t) = .next ((t.transmit (.slot k)).driveLines before)) ∧
    (∀ n r, endStep before n (.refused r) = .refused r))

/-- The receiver delivers a frame exactly when its 256th byte arrives, and delivers those bytes (40_framer_crc.md rules
R178, R179, 30_encoding.md rule R130). -/
def Obligations.ReceiverDelivers : Prop :=
  ∀ (fr : Framer) (bytes : List Byte), fr.txBusy = false → fr.rxCount = 0 → bytes.length ≤ 256 →
    (bytes.length < 256 → bytes ≠ [] →
      (fr.receive bytes).2 = [] ∧ (fr.receive bytes).1.rxCount.toNat = bytes.length ∧
      (fr.receive bytes).1.gapCount = 0) ∧
    (bytes.length = 256 →
      (fr.receive bytes).2 = [bytes] ∧ (fr.receive bytes).1.rxCount = 0 ∧ (fr.receive bytes).1.gapCount = 0) ∧
    (fr.receive bytes).1.txBusy = false ∧ (fr.receive bytes).1.outbox = fr.outbox

/-- A step with a byte that does not complete a frame, however the medium brings it, only fills the node's receive buffer
(40_framer_crc.md rule R178), at the Controller with the end of the step, which changes nothing outside IDLE or with no slot
pending and no command latched (42_controller_registration.md rule R260); the two lines of each slot, the other wires and
every other core are as before. (That the byte leaves the node's wire, and a transmission of which it was the last byte the
line, is the model's own: log entry 11; that the node becomes the active one too: log entry 15.) -/
def Obligations.ByteFillsBuffer : Prop :=
  (∀ (s s' : State) (k : Nat) (e : Extension) (b : Byte) (ev : Event) (rest : List (List Event)),
    s.inputs = [ev] :: rest → s.brings (.slot k) b ev s' → s.board k = some e →
    e.framer.txBusy = false → e.framer.outbox = none → e.framer.rxCount ≠ 255 →
    step s = .next ({ s' with inputs := rest, active := .slot k }.setBoard k { e with
      framer := { e.framer with
        rxBuf := Memory.write e.framer.rxBuf e.framer.rxCount.toNat b
        gapCount := 0
        rxCount := e.framer.rxCount + 1 } })) ∧
  (∀ (s s' : State) (b : Byte) (ev : Event) (rest : List (List Event)),
    s.inputs = [ev] :: rest → s.brings .controller b ev s' →
    s.ctrl.framer.txBusy = false → s.ctrl.framer.rxCount ≠ 255 →
    let taken := { s' with inputs := rest }
    let filled := { taken with
      active := .controller
      ctrl := { s.ctrl with framer := { s.ctrl.framer with
        rxBuf := Memory.write s.ctrl.framer.rxBuf s.ctrl.framer.rxCount.toNat b
        gapCount := 0
        rxCount := s.ctrl.framer.rxCount + 1 } } }
    step s = endStep taken .controller (.next filled) ∧
    (s.ctrl.framer.outbox = none →
      s.ctrl.cst ≠ .idle ∨ (s.ctrl.lowestPending = none ∧ s.ctrl.cmdValid = false) → step s = .next filled))

/-- 40_framer_crc.md rule R181: a byte that arrives while the node transmits changes no state; and the medium delivers no
byte of a frame to it then (20_memory.md rule R118). -/
def Obligations.ByteWhileSending : Prop :=
  ∀ (s : State) (n : Node) (fr : Framer) (b : Byte) (ev : Event) (rest : List (List Event)),
    s.inputs = [ev] :: rest → (ev = .rxByte n b ∨ ev = .deliver n ∨ ev = .corrupt n b) → s.framer n = some fr →
    fr.txBusy = true → step s = .next { s with inputs := rest }

/-- 40_framer_crc.md rule R180: nothing happens to an empty receiver; a partial frame of `n` bytes is given up at the
T_GAP-th tick after its last byte, reported once with its byte count, and not before. -/
def Obligations.GapTimeout : Prop :=
  ∀ (fr : Framer) (tGap : BitVec 16), tGap ≠ 0 →
    (fr.rxCount = 0 → ∀ m, Framer.gapTicks tGap m fr = (fr, [])) ∧
    (fr.rxCount ≠ 0 → fr.gapCount = 0 →
      (∀ m, m < tGap.toNat →
        Framer.gapTicks tGap m fr = ({ fr with gapCount := BitVec.ofNat 16 m }, [])) ∧
      Framer.gapTicks tGap tGap.toNat fr = ({ fr with rxCount := 0, gapCount := 0 }, [fr.rxCount.toNat]))

/-- The channel (20_memory.md rules R117, R118; 00_scope.md rule R16, 40_framer_crc.md rules R177, R181). `Send` starts the
transmission and discards a partial received frame (rule R177; vector T3 of 95_test_vectors.md reads otherwise: log entry
21); the transfer to the bus takes the frame from the framer and changes nothing else of any core or line. What a node
handed to its Transport is on its way, unchanged, to every other attached node and not to itself; when the transmission of another
node is on the line, it and every transmission on the line are garbled, at every node. A transmission is on the line until
its Transport is done with it or a node has received it whole (`State.brings`), so a frame that answers it does not
overlap it (rule R116). A frame that is cut leaves nothing of it to deliver, but T_GAP ticks of silence of the receiver, in
which no byte comes in. Of a garbled one any bytes come in (`State.brings`), until the event that ends it takes it from the
wire, which changes no other wire. At `TxDone` what is left is still to be delivered; a frame that is given up (by `TxError`, rule
R234 of 41_extension_fsm.md, or by a reset, rule R403 of 70_reset_and_hazards.md) reaches no node whole that has not had it
yet: each gets a prefix, and then the silence. (The wires are queues of the model: log entry 11; so is the
place `outbox` of a frame between the two: log entry 15; how much of a frame that
was given up still arrives is free: log entry 6.) -/
def Obligations.TransmitReachesOthers : Prop :=
  (∀ (s : State) (n : Node) (fr : Framer) (f : List Byte), s.framer n = some fr → fr.outbox = some f →
    ((∀ m, m ∈ s.onLine → m = n) →
      (∀ m fm, m ≠ n → s.framer m = some fm →
        (s.transmit n).wire m = s.wire m ++ [{ sender := n, bytes := f, carriage := .intact, ended := false }] ∧
        (s.transmit n).framer m = some fm) ∧
      (s.transmit n).wire n = s.wire n) ∧
    ((∃ m, m ∈ s.onLine ∧ m ≠ n) →
      let garbled := List.map (fun t : Transmission =>
        if t.ended = false ∧ t.sender ∈ s.onLine ∧ t.sender ≠ n then { t with carriage := .garbled } else t)
      (∀ m fm, m ≠ n → s.framer m = some fm →
        (s.transmit n).wire m =
          garbled (s.wire m) ++ [{ sender := n, bytes := f, carriage := .garbled, ended := false }] ∧
        (s.transmit n).framer m = some fm) ∧
      (s.transmit n).wire n = garbled (s.wire n)) ∧
    (∀ m, m ∈ (s.transmit n).onLine ↔ m = n ∨ m ∈ s.onLine) ∧
    (s.transmit n).framer n = some { fr with outbox := none } ∧
    (s.transmit n).slots.length = s.slots.length) ∧
  (∀ (s : State) (n : Node) (t : State), t = s.transmit n →
    (∀ fr, s.framer n = some fr → fr.outbox = none → t = s) ∧ (s.framer n = none → t = s) ∧
    t = { s with ctrl := t.ctrl, slots := t.slots, ctrlWire := t.ctrlWire, onLine := t.onLine } ∧
    t.ctrl = (if n = .controller then { s.ctrl with framer := { s.ctrl.framer with outbox := none } } else s.ctrl) ∧
    ∀ (k : Nat) (sl : Slot), s.slots[k]? = some sl → ∃ w, t.slots[k]? = some { sl with
      board := if n = .slot k then sl.board.map (fun e : Extension => { e with framer := { e.framer with outbox := none } })
        else sl.board
      wire := w }) ∧
  (∀ (fr : Framer) (f : List Byte),
    fr.send f = { fr with txBusy := true, rxCount := 0, gapCount := 0, outbox := some f }) ∧
  (∀ (s : State) (n : Node) (p : Params) (t : Transmission) (w : Wire) (rest : List (List Event)),
    s.inputs = [.cut n] :: rest → s.params n = some p → s.wire n = t :: w → t.carriage = .intact → t.bytes ≠ [] →
    step s = .next ({ s with inputs := rest }.setWire n
      ({ t with bytes := [], carriage := .cut p.tGap.toNat } :: w))) ∧
  (∀ (s : State) (n : Node) (p : Params) (t : Transmission) (w : Wire) (quiet : Nat), s.params n = some p →
    s.wire n = t :: w → t.carriage = .cut quiet → t.bytes = [] →
    (∀ ev b rest, s.inputs = [ev] :: rest → (ev = .rxByte n b ∨ ev = .deliver n ∨ ev = .corrupt n b) →
      step s = .next { s with inputs := rest }) ∧
    (s.silentTick n).wire n = if quiet ≤ 1 then w else { t with carriage := .cut (quiet - 1) } :: w) ∧
  (∀ (s : State) (n : Node) (rest : List (List Event)), s.inputs = [.noiseEnds n] :: rest →
    let taken := { s with inputs := rest }
    (∀ t w, s.wire n = t :: w → t.carriage = .garbled → step s = .next (taken.setWire n w)) ∧
    ((∀ t w, s.wire n = t :: w → t.carriage ≠ .garbled) → step s = .next taken)) ∧
  (∀ (s : State) (n m : Node) (p : Params) (t : Transmission) (w : Wire), s.params m = some p →
    s.wire m = w ++ [t] → (∀ u ∈ w, u.sender ≠ n ∨ u.ended = true) → t.sender = n → t.ended = false →
    (s.sendEnds n).wire m = w ++ [{ t with ended := true }] ∧
    (t.bytes ≠ [] → (t.carriage = .intact ∨ t.carriage = .damaged) → ∃ j, j < t.bytes.length ∧
      (s.giveUp n).wire m =
        w ++ [{ t with bytes := t.bytes.take j, carriage := .cut p.tGap.toNat, ended := true }]) ∧
    (t.bytes = [] ∨ t.carriage = .garbled ∨ (∃ quiet, t.carriage = .cut quiet) →
      (s.giveUp n).wire m = w ++ [{ t with ended := true }])) ∧
  (∀ (s : State) (n m : Node) (p : Params), s.params m = some p → (∀ u ∈ s.wire m, u.sender ≠ n ∨ u.ended = true) →
    (s.sendEnds n).wire m = s.wire m ∧ (s.giveUp n).wire m = s.wire m) ∧
  (∀ (s : State) (n m : Node), (m ∈ (s.sendEnds n).onLine ↔ m ∈ s.onLine ∧ m ≠ n) ∧
    (m ∈ (s.giveUp n).onLine ↔ m ∈ s.onLine ∧ m ≠ n))

/-- 44_line_arbiter.md rules R342, R343: at the end of a step the Transport is called for exactly the lines whose driven
level the step changed, and nothing else of a slot changes; a level in flight arrives at the other end, and changes nothing
but that line; what a core samples is the level at its end. (The levels in flight are a queue of the model: log entry
10.) -/
def Obligations.LinesDriven : Prop :=
  (∀ (before s : State) (k : Nat) (old now : Slot), before.slots[k]? = some old → s.slots[k]? = some now →
    (s.driveLines before).slots[k]? = some { now with
      sel := if s.ctrl.selOut.getLsbD k = before.ctrl.selOut.getLsbD k then now.sel
        else { now.sel with inFlight := now.sel.inFlight ++ [s.ctrl.selOut.getLsbD k] }
      ready := if readyDriven now.board = readyDriven old.board then now.ready
        else { now.ready with inFlight := now.ready.inFlight ++ [readyDriven now.board] } } ∧
    (s.driveLines before).ctrl = s.ctrl) ∧
  (∀ (s : State) (line : LineName) (k : Nat) (rest : List (List Event)), s.inputs = [.lineArrives line k] :: rest →
    let taken := { s with inputs := rest }
    (s.slots[k]? = none → step s = .next taken) ∧
    (∀ sl, s.slots[k]? = some sl →
      (line = .ready → sl.ready.inFlight = [] → step s = .next taken) ∧
      (line = .sel → sl.sel.inFlight = [] → step s = .next taken) ∧
      (∀ b bs, line = .ready → sl.ready.inFlight = b :: bs →
        step s = .next { taken with slots := s.slots.set k { sl with ready := { level := b, inFlight := bs } } }) ∧
      (∀ b bs, line = .sel → sl.sel.inFlight = b :: bs →
        step s = .next { taken with slots := s.slots.set k { sl with sel := { level := b, inFlight := bs } } }))) ∧
  (∀ (s : State) (k : Nat),
    (∀ sl, s.slots[k]? = some sl →
      (k < 32 → s.readyLevels.getLsbD k = sl.ready.level) ∧ s.selLevel k = sl.sel.level) ∧
    (s.slots[k]? = none → s.readyLevels.getLsbD k = false ∧ s.selLevel k = false))

/-! ### The packet types at a board -/

/-- 41_extension_fsm.md rule R220: INIT at a SELECTED board is the registration; a malformed one and one to another
Receiver-ID than 0xFF are dropped. -/
def Obligations.InitRegisters : Prop :=
  ∀ (s : State) (k : Nat) (e : Extension) (body : List Byte), s.active = .slot k → s.board k = some e →
    e.est = .selected → e.selSync = true →
    (∀ id : Byte, assignable id → body = id :: List.replicate 251 0x00 →
      exec (.init 0xFF body) s = .next (s.setBoard k { e with
        extId := id
        est := .registered
        readyOut := false
        events := e.events ||| 0b0001
        framer := e.sending 0x04 [] })) ∧
    (parse .init body = none → exec (.init 0xFF body) s = .next s) ∧
    (∀ rid : Byte, rid ≠ 0xFF → exec (.init rid body) s = .next s)

/-- 41_extension_fsm.md rule R221: INIT at a REGISTERED board with SEL asserted is a retry of the registration; with SEL
released it is dropped. -/
def Obligations.InitRetried : Prop :=
  ∀ (s : State) (k : Nat) (e : Extension) (body : List Byte), s.active = .slot k → s.board k = some e →
    e.est = .registered →
    (∀ id : Byte, e.selSync = true → assignable id → body = id :: List.replicate 251 0x00 →
      exec (.init 0xFF body) s = .next (s.setBoard k { e with
        extId := id
        events := e.events ||| 0b0001
        framer := e.sending 0x04 [] })) ∧
    (e.selSync = true → parse .init body = none → exec (.init 0xFF body) s = .next s) ∧
    (e.selSync = false → exec (.init 0xFF body) s = .next s)

/-- 41_extension_fsm.md rules R223 and R228: a response type, or an INIT, addressed to the board gets Error 0x03. (An
`ext_id` of 0xFF is held by no board; 30_encoding.md rule R131.) -/
def Obligations.UnexpectedTypeAnswered : Prop :=
  ∀ (s : State) (k : Nat) (e : Extension) (body : List Byte), s.active = .slot k → s.board k = some e →
    e.est = .registered → e.extId ≠ 0xFF →
    let answered := .next (s.setBoard k (e.sendsError 0x03))
    exec (.initProbeResponse e.extId body) s = answered ∧ exec (.acknowledge e.extId body) s = answered ∧
    exec (.error e.extId body) s = answered ∧ exec (.metricsResponse e.extId body) s = answered ∧
    exec (.configureOptionsResponse e.extId body) s = answered ∧ exec (.init e.extId body) s = answered

/-- 41_extension_fsm.md rule R222: INIT_PROBE. -/
def Obligations.InitProbeAnswered : Prop :=
  ∀ (s : State) (k : Nat) (e : Extension) (rid : Byte) (body : List Byte), s.active = .slot k → s.board k = some e →
    e.extId ≠ 0xFF →
    let accepted := (rid = 0xFF ∧ e.selSync = true) ∨ (rid = e.extId ∧ e.est = .registered)
    (accepted → body = List.replicate 252 0x00 →
      exec (.initProbe rid body) s = .next (s.setBoard k { e with
        framer := if e.est = .registered then e.sending 0x02 [0x01, e.extId] else e.sending 0x02 [0x00, 0x00] })) ∧
    (accepted → parse .initProbe body = none → rid = e.extId → e.est = .registered →
      exec (.initProbe rid body) s = .next (s.setBoard k (e.sendsError 0x02))) ∧
    (accepted → parse .initProbe body = none → ¬(rid = e.extId ∧ e.est = .registered) →
      exec (.initProbe rid body) s = .next s) ∧
    (¬accepted → exec (.initProbe rid body) s = .next s)

/-- 41_extension_fsm.md rule R224: RESTART. -/
def Obligations.RestartUnregisters : Prop :=
  ∀ (s : State) (k : Nat) (e : Extension) (rid : Byte) (body : List Byte), s.active = .slot k → s.board k = some e →
    e.est = .registered → (rid = e.extId ∨ rid = 0xFF) →
    (body = List.replicate 252 0x00 →
      exec (.restart rid body) s = .next (s.setBoard k { e with
        extId := 0x00
        est := if e.selSync then .selected else .uninitialized
        readyOut := true
        events := e.events ||| 0b0100 })) ∧
    (parse .restart body = none → rid = e.extId →
      exec (.restart rid body) s = .next (s.setBoard k (e.sendsError 0x02))) ∧
    (parse .restart body = none → rid ≠ e.extId → exec (.restart rid body) s = .next s)

/-- 41_extension_fsm.md rule R226: CONFIGURE stores its data in CONFIG_BUF, at the offsets 0x300 on, and nowhere
else. -/
def Obligations.ConfigureStores : Prop :=
  ∀ (s : State) (k : Nat) (e : Extension) (body : List Byte), s.active = .slot k → s.board k = some e →
    e.est = .registered → e.extId ≠ 0xFF →
    (∀ data : List Byte, data.length ≤ 251 →
      body = BitVec.ofNat 8 data.length :: data ++ List.replicate (251 - data.length) 0x00 →
      ∃ m, exec (.configure e.extId body) s = .next (s.setBoard k { e with
          mem := m
          configLen := BitVec.ofNat 8 data.length
          events := e.events ||| 0b0010
          framer := e.sending 0x04 [] }) ∧
        (∀ j (h : j < data.length), Memory.read m (0x300 + j) = data[j]) ∧
        (∀ a, a < 0x300 ∨ 0x300 + data.length ≤ a → Memory.read m a = Memory.read e.mem a) ∧
        (Memory.wf e.mem → Memory.wf m)) ∧
    (parse .configure body = none → exec (.configure e.extId body) s = .next (s.setBoard k (e.sendsError 0x02)))

/-- 41_extension_fsm.md rules R225, R227: METRICS and CONFIGURE_OPTIONS are answered with the data of METRICS_BUF, at the
offsets 0x100 on, and OPTIONS_BUF, at the offsets 0x200 on. -/
def Obligations.ReadRequestsAnswered : Prop :=
  ∀ (s : State) (k : Nat) (e : Extension) (body : List Byte), s.active = .slot k → s.board k = some e →
    e.est = .registered → e.extId ≠ 0xFF →
    (body = List.replicate 252 0x00 → e.metricsLen.toNat ≤ 251 →
      exec (.metrics e.extId body) s = .next (s.setBoard k { e with
        framer := e.sending 0x09 (e.metricsLen :: bufferBytes e.mem 0x100 e.metricsLen.toNat) })) ∧
    (body = List.replicate 252 0x00 → 251 < e.metricsLen.toNat →
      exec (.metrics e.extId body) s = .next (s.setBoard k (e.sendsError 0x04))) ∧
    (parse .metrics body = none → exec (.metrics e.extId body) s = .next (s.setBoard k (e.sendsError 0x02))) ∧
    (body = List.replicate 252 0x00 → e.optionsLen.toNat ≤ 251 →
      exec (.configureOptions e.extId body) s = .next (s.setBoard k { e with
        framer := e.sending 0x0B (e.optionsLen :: bufferBytes e.mem 0x200 e.optionsLen.toNat) })) ∧
    (body = List.replicate 252 0x00 → 251 < e.optionsLen.toNat →
      exec (.configureOptions e.extId body) s = .next (s.setBoard k (e.sendsError 0x04))) ∧
    (parse .configureOptions body = none →
      exec (.configureOptions e.extId body) s = .next (s.setBoard k (e.sendsError 0x02)))

/-- 41_extension_fsm.md rule R213: an unassigned type addressed to a REGISTERED board gets Error 0x01; every other decode
failure changes nothing. -/
def Obligations.DecodeFailureAtBoard : Prop :=
  ∀ (s : State) (k : Nat) (e : Extension) (rid : Byte) (body : List Byte), s.active = .slot k → s.board k = some e →
    (∀ answer : State,
      answer = (if e.est = .registered ∧ rid = e.extId then s.setBoard k (e.sendsError 0x01) else s) →
      exec (.unassigned00 rid body) s = .next answer ∧
      (∀ low, exec (.unassigned0C low rid body) s = .next answer) ∧
      (∀ low, exec (.unassigned10 low rid body) s = .next answer) ∧
      (∀ low, exec (.unassigned20 low rid body) s = .next answer) ∧
      (∀ low, exec (.unassigned40 low rid body) s = .next answer) ∧
      (∀ low, exec (.unassigned80 low rid body) s = .next answer)) ∧
    (∀ reason, (∀ r t, reason ≠ .unknownType r t) → s.decodeFailed reason = s)

/-- 41_extension_fsm.md rule R235: a REGISTERED board answers no frame to another Receiver-ID; its state does not
change either (rule R214). -/
def Obligations.AddressFilter : Prop :=
  ∀ (s : State) (k : Nat) (e : Extension) (rid : Byte) (body : List Byte), s.active = .slot k → s.board k = some e →
    e.est = .registered → rid ≠ e.extId → rid ≠ 0xFF →
    (∀ t : PacketType, exec (packetInstr t rid body) s = .next s) ∧
    (∀ t : Byte, PacketType.ofCode t = none → exec (unassignedInstr t rid body) s = .next s)

/-- 41_extension_fsm.md rule R237: an unregistered board changes nothing and sends nothing but for a well-formed
broadcast INIT or INIT_PROBE while it is SELECTED. The premise on `EST` is the invariant of 10_state.md rule R57. -/
def Obligations.UnregisteredSilence : Prop :=
  ∀ (s : State) (k : Nat) (e : Extension) (rid : Byte) (body : List Byte), s.active = .slot k → s.board k = some e →
    e.est ≠ .registered → (e.est = .selected ↔ e.selSync = true) →
    (e.est = .uninitialized → ∀ t : PacketType, exec (packetInstr t rid body) s = .next s) ∧
    (e.est = .selected → ∀ t : PacketType,
      ¬(rid = 0xFF ∧ (t = .init ∨ t = .initProbe) ∧ parse t body ≠ none) →
      exec (packetInstr t rid body) s = .next s) ∧
    (∀ t : Byte, PacketType.ofCode t = none → exec (unassignedInstr t rid body) s = .next s)

/-- 41_extension_fsm.md rules R229 and R236: a REGISTERED board drops every broadcast but RESTART, and INIT and
INIT_PROBE while SEL is asserted; it answers only the last two. -/
def Obligations.BroadcastSilence : Prop :=
  ∀ (s : State) (k : Nat) (e : Extension) (body : List Byte), s.active = .slot k → s.board k = some e →
    e.est = .registered → e.extId ≠ 0xFF →
    (∀ t : PacketType, t ≠ .restart → ¬(e.selSync = true ∧ (t = .init ∨ t = .initProbe)) →
      exec (packetInstr t 0xFF body) s = .next s) ∧
    (∃ e', exec (.restart 0xFF body) s = .next (s.setBoard k e') ∧ e'.framer = e.framer) ∧
    (∀ t : Byte, PacketType.ofCode t = none → exec (unassignedInstr t 0xFF body) s = .next s)

/-- 41_extension_fsm.md rule R232: what a board sends in the step of a frame is one frame to the Master, with the version
and CRC of rule R130; and in every other step it sends nothing (20_memory.md rule R115): a byte, in itself, a tick, a host write, the end of a
transmission, which only clears `tx_busy` (rule R234), a reset and an attachment. -/
def Obligations.RepliesToMaster : Prop :=
  (∀ (e : Extension) (rid : Byte) (t : PacketType) (body : List Byte) (reason : DecodeError) (e' : Extension)
      (f : List Byte),
    e.framer.outbox = none → (e' = e.frameReceived rid t body ∨ e' = e.decodeFailed reason) →
    e'.framer.outbox = some f →
    f.length = 256 ∧ f.getD 0 0 = e.params.protocolVersion ∧ f.getD 1 0 = 0x00 ∧
    f.getD 255 0 = crc8 e.params (f.take 255) ∧ e'.framer.txBusy = true) ∧
  (∀ (fr : Framer) (b : Byte), (fr.rxByte b).1.outbox = fr.outbox) ∧
  (∀ (e : Extension) (level : Bool), (e.tick level).framer.outbox = e.framer.outbox) ∧
  (∀ (e : Extension) (a : Nat) (v : Word), (e.applyWrite a v).framer = e.framer) ∧
  (∀ e : Extension, e.endSend = { e with framer := { e.framer with txBusy := false } }) ∧
  (∀ (p : Params) (sel : Bool) (d : Nat), (resetExtension p sel d).framer.outbox = none)

/-- The tick of a board: SEL is sampled, an edge moves an unregistered board between UNINITIALIZED and SELECTED, and the
receiver counts its gap; nothing else changes (41_extension_fsm.md rule R211, 44_line_arbiter.md rule R342, 60_exceptions.md rule
R378). The premise is the invariant of 10_state.md rule R57. -/
def Obligations.BoardTick : Prop :=
  ∀ (e : Extension) (level : Bool), (e.est ≠ .registered → (e.est = .selected ↔ e.selSync = true)) →
    e.tick level = { e with
      selPrev := e.selSync
      selSync := level
      est := if e.est = .registered then .registered else if level then .selected else .uninitialized
      framer := (e.framer.gapTick e.params.tGap).1 }

/-! ### The packet types at the Controller -/

/-- 43_controller_commands.md rule R326: a frame whose Receiver-ID is not 0x00 is ignored in every state. -/
def Obligations.ControllerAddressFilter : Prop :=
  ∀ (s : State) (t : PacketType) (rid : Byte) (body : List Byte), s.active = .controller → rid ≠ 0x00 →
    exec (packetInstr t rid body) s = .next s

/-- The frames and decode failures the Controller ignores, state by state (42_controller_registration.md rule R269,
43_controller_commands.md rules R295, R296, R297, R299, R328). -/
def Obligations.ControllerDiscards : Prop :=
  ∀ (s : State) (rid : Byte) (body : List Byte), s.active = .controller →
    (∀ t : PacketType, s.ctrl.cst ≠ .regWait → s.ctrl.cst ≠ .cmdWait → exec (packetInstr t rid body) s = .next s) ∧
    (∀ t : PacketType, s.ctrl.cst = .regWait → ¬(t = .acknowledge ∧ parse t body ≠ none) →
      exec (packetInstr t rid body) s = .next s) ∧
    (∀ t : PacketType, s.ctrl.cst = .cmdWait → parse t body = none ∨ (t.code ≠ s.ctrl.expType ∧ t ≠ .error) →
      exec (packetInstr t rid body) s = .next s) ∧
    (∀ t : Byte, PacketType.ofCode t = none → exec (unassignedInstr t rid body) s = .next s) ∧
    (∀ reason, ¬(s.ctrl.cst = .cmdWait ∧ ∃ c, reason = .checksumMismatch c) → s.decodeFailed reason = s)

/-- 42_controller_registration.md rule R268: the Acknowledge that ends a registration. -/
def Obligations.AcknowledgeRegisters : Prop :=
  ∀ (s : State) (c : Controller), s.active = .controller → s.ctrl = c → c.cst = .regWait →
    ∃ c', exec (.acknowledge 0x00 (List.replicate 252 0x00)) s = .next { s with ctrl := c' } ∧
      (∀ i, c'.record i = if i = c.curId then { status := .registered, last := c.now } else c.record i) ∧
      c' = { c with
        registry := c'.registry
        timerArmed := false
        timerCount := 0
        selOut := setBit c.selOut c.curSlot.toNat false
        evtOvf := c.evtOvf || c.regEvt
        regEvent := { kind := .registered, slot := c.curSlot.setWidth 8, id := c.curId }
        regEvt := true
        cst := .idle }

/-- 43_controller_commands.md rules R296, R302: the Acknowledge that completes a CONFIGURE; RXBUF is not written. -/
def Obligations.AcknowledgeCompletesConfigure : Prop :=
  ∀ (s : State) (c : Controller), s.active = .controller → s.ctrl = c → c.cst = .cmdWait → c.expType = 0x04 →
    opcOf c.curCmd = 0x02 →
    ∃ c', exec (.acknowledge 0x00 (List.replicate 252 0x00)) s = .next { s with ctrl := c' } ∧
      (∀ i, c'.record i = if i = c.curId then { c.record i with last := c.now } else c.record i) ∧
      c' = { c.finished .ok 0 0 with registry := c'.registry }

/-- 43_controller_commands.md rules R296, R300, R304: the response that completes METRICS or CONFIG_OPTIONS; its data goes
to RXBUF, at the offsets 0x200 on, and nowhere else. -/
def Obligations.ResponseCompletes : Prop :=
  ∀ (s : State) (c : Controller) (data body : List Byte) (i : Instr), s.active = .controller → s.ctrl = c →
    c.cst = .cmdWait → data.length ≤ 251 →
    body = BitVec.ofNat 8 data.length :: data ++ List.replicate (251 - data.length) 0x00 →
    ((i = .metricsResponse 0x00 body ∧ c.expType = 0x09 ∧ opcOf c.curCmd = 0x01) ∨
      (i = .configureOptionsResponse 0x00 body ∧ c.expType = 0x0B ∧ opcOf c.curCmd = 0x03)) →
    ∃ c', exec i s = .next { s with ctrl := c' } ∧
      (∀ j, c'.record j = if j = c.curId then { c.record j with last := c.now } else c.record j) ∧
      (∀ j (h : j < data.length), Memory.read c'.mem (0x200 + j) = data[j]) ∧
      (∀ a, a < 0x200 ∨ 0x200 + data.length ≤ a → Memory.read c'.mem a = Memory.read c.mem a) ∧
      (Memory.wf c.mem → Memory.wf c'.mem) ∧
      c' = { c.finished .ok (BitVec.ofNat 8 data.length) 0 with registry := c'.registry, mem := c'.mem }

/-- 43_controller_commands.md rules R296, R308: the response that completes PROBE; the Registry is not written. -/
def Obligations.ProbeResponseCompletes : Prop :=
  ∀ (s : State) (c : Controller) (id : Byte), s.active = .controller → s.ctrl = c → c.cst = .cmdWait →
    c.expType = 0x02 → opcOf c.curCmd = 0x05 →
    exec (.initProbeResponse 0x00 (0x00 :: id :: List.replicate 250 0x00)) s =
      .next { s with ctrl := { c.finished .ok 0 0 with selOut := setBit c.selOut c.curSlot.toNat false } } ∧
    (assignable id →
      ∃ m, exec (.initProbeResponse 0x00 (0x01 :: id :: List.replicate 250 0x00)) s =
          .next { s with ctrl :=
            { c.finished .ok 1 0x01 with selOut := setBit c.selOut c.curSlot.toNat false, mem := m } } ∧
        Memory.read m 0x200 = id ∧ (∀ a, a ≠ 0x200 → Memory.read m a = Memory.read c.mem a) ∧
        (Memory.wf c.mem → Memory.wf m))

/-- 43_controller_commands.md rule R296: an Error ends the command at once, with its code in RESP_INFO; the Registry and
RXBUF are unchanged. (No command awaits an Error, so `exp_type` is never its code.) -/
def Obligations.ErrorRejects : Prop :=
  ∀ (s : State) (c : Controller) (code : Byte), s.active = .controller → s.ctrl = c → c.cst = .cmdWait →
    c.expType ≠ 0x05 →
    exec (.error 0x00 (code :: List.replicate 251 0x00)) s =
      .next { s with ctrl := { c.finished .rejected 0 code with
        selOut := if opcOf c.curCmd = 0x05 then setBit c.selOut c.curSlot.toNat false else c.selOut } }

/-! ### The host commands -/

/-- 43_controller_commands.md rules R300, R302, R304: METRICS, CONFIGURE and CONFIG_OPTIONS to a REGISTERED extension send
their request and await its response. CONFIGURE's data is TXBUF, at the offsets 0x100 on. -/
def Obligations.RequestsStart : Prop :=
  ∀ (s : State) (c : Controller) (t len rsvd : Byte), s.ctrl = c → assignable t → (c.record t).status = .registered →
    (∀ f, f = frameBytes c.params t 0x08 (List.replicate 252 0x00) →
      exec (.cmdMetrics t len rsvd) s = .next { s with ctrl := { c with
        curId := t, txFrame := f, expType := 0x09, attempts := 0, framer := c.framer.send f, cst := .cmdTx } }) ∧
    (∀ f, f = frameBytes c.params t 0x0A (List.replicate 252 0x00) →
      exec (.cmdConfigOptions t len rsvd) s = .next { s with ctrl := { c with
        curId := t, txFrame := f, expType := 0x0B, attempts := 0, framer := c.framer.send f, cst := .cmdTx } }) ∧
    (∀ f, len.toNat ≤ 251 →
      f = frameBytes c.params t 0x07
        (len :: bufferBytes c.mem 0x100 len.toNat ++ List.replicate (251 - len.toNat) 0x00) →
      exec (.cmdConfigure t len rsvd) s = .next { s with ctrl := { c with
        curId := t, txFrame := f, expType := 0x04, attempts := 0, framer := c.framer.send f, cst := .cmdTx } })

/-- 60_exceptions.md rule R379 for commands: the first failing check completes a request with its result and nothing is
sent (43_controller_commands.md rules R300, R302, R304). -/
def Obligations.RequestErrors : Prop :=
  ∀ (s : State) (c : Controller) (t len rsvd : Byte) (i : Instr), s.ctrl = c →
    (i = .cmdMetrics t len rsvd ∨ i = .cmdConfigOptions t len rsvd ∨ i = .cmdConfigure t len rsvd) →
    (t = 0x00 ∨ t = 0xFF → exec i s = .next { s with ctrl := c.finished .badTarget 0 0 }) ∧
    (assignable t → (c.record t).status = .absent →
      exec i s = .next { s with ctrl := c.finished .noSuchExtension 0 0 }) ∧
    (assignable t → (c.record t).status ≠ .absent → (c.record t).status ≠ .registered →
      exec i s = .next { s with ctrl := c.finished .notRegistered 0 0 }) ∧
    (assignable t → (c.record t).status = .registered → 251 < len.toNat →
      exec (.cmdConfigure t len rsvd) s = .next { s with ctrl := c.finished .formatError 0 0 })

/-- 43_controller_commands.md rule R306: RESTART, its errors and its completion on `TxDone`. (The records 0x00 and 0xFF are
always ABSENT: 10_state.md rule R36.) -/
def Obligations.RestartCommand : Prop :=
  (∀ (s : State) (c : Controller) (t len rsvd : Byte), s.ctrl = c →
    (t = 0x00 → exec (.cmdRestart t len rsvd) s = .next { s with ctrl := c.finished .badTarget 0 0 }) ∧
    (assignable t → (c.record t).status = .absent →
      exec (.cmdRestart t len rsvd) s = .next { s with ctrl := c.finished .noSuchExtension 0 0 }) ∧
    (t = 0xFF ∨ (assignable t ∧ (c.record t).status ≠ .absent) →
      ∀ f, f = frameBytes c.params t 0x06 (List.replicate 252 0x00) →
      exec (.cmdRestart t len rsvd) s = .next { s with ctrl := { c with
        curId := t, txFrame := f, expType := 0x00, attempts := 0, framer := c.framer.send f, cst := .cmdTx } })) ∧
  (∀ c : Controller, c.cst = .cmdTx → opcOf c.curCmd = 0x04 →
    (c.record 0x00).status = .absent → (c.record 0xFF).status = .absent →
    c.txDone = { c.finished .ok 0 0 with
      registry := c.txDone.registry
      framer := { c.framer with txBusy := false } } ∧
    ∀ i, c.txDone.record i =
      if (c.curId = 0xFF ∧ ((c.record i).status = .registered ∨ (c.record i).status = .unresponsive)) ∨
          (c.curId ≠ 0xFF ∧ i = c.curId)
      then { c.record i with status := .unregistered } else c.record i)

/-- 43_controller_commands.md rule R308: the start of PROBE. -/
def Obligations.ProbeCommand : Prop :=
  ∀ (s : State) (c : Controller) (k len rsvd : Byte), s.ctrl = c →
    (c.params.nslots ≤ k.toNat → exec (.cmdProbe k len rsvd) s = .next { s with ctrl := c.finished .badTarget 0 0 }) ∧
    (k.toNat < c.params.nslots → ∀ f c1, f = frameBytes c.params 0xFF 0x01 (List.replicate 252 0x00) →
      c1 = { c with
        curSlot := k.setWidth 5
        selOut := setBit c.selOut k.toNat true
        curId := 0xFF
        txFrame := f
        expType := 0x02
        attempts := 0 } →
      (c.params.tSettle = 0 →
        exec (.cmdProbe k len rsvd) s =
          .next { s with ctrl := { c1 with framer := c.framer.send f, cst := .cmdTx } }) ∧
      (c.params.tSettle ≠ 0 →
        exec (.cmdProbe k len rsvd) s =
          .next { s with ctrl := { c1 with settleCount := c.params.tSettle, cst := .cmdSettle } }))

/-- 43_controller_commands.md rules R320, R322: the commands that end at once. RESET_REGISTRY clears every record and gives
out IDs from 0x01 again; the reserved opcodes complete with BAD_COMMAND and change nothing else. -/
def Obligations.CommandsWithoutExchange : Prop :=
  ∀ (s : State) (c : Controller) (t len rsvd : Byte), s.ctrl = c →
    (∃ c', exec (.cmdResetRegistry t len rsvd) s = .next { s with ctrl := c' } ∧
      (∀ i, c'.record i = { status := .absent, last := 0 }) ∧
      c' = { c.finished .ok 0 0 with registry := c'.registry, nextId := 0x01 }) ∧
    (∀ answer : State, answer = { s with ctrl := c.finished .badCommand 0 0 } →
      exec (.reserved00 t len rsvd) s = .next answer ∧ exec (.reserved07 t len rsvd) s = .next answer ∧
      (∀ low, exec (.reserved08 low t len rsvd) s = .next answer) ∧
      (∀ low, exec (.reserved10 low t len rsvd) s = .next answer) ∧
      (∀ low, exec (.reserved20 low t len rsvd) s = .next answer) ∧
      (∀ low, exec (.reserved40 low t len rsvd) s = .next answer) ∧
      (∀ low, exec (.reserved80 low t len rsvd) s = .next answer))

/-- 43_controller_commands.md rule R290: a write to CMD. -/
def Obligations.CommandWrite : Prop :=
  ∀ (c : Controller) (w : Word),
    ((c.statusWord.getLsbD 0 = true) → c.applyWrite 0x008 w = { c with cmdDropped := true }) ∧
    ((c.statusWord.getLsbD 0 = false) →
      c.applyWrite 0x008 w = { c with cmd := w, cmdLatched := w, cmdValid := true, done := false })

/-! ### The Controller's sequences -/

/-- 42_controller_registration.md rules R260, R261: arbitration. -/
def Obligations.Arbitration : Prop :=
  ∀ s : State,
    (s.ctrl.cst ≠ .idle → s.arbitrate = .next s) ∧
    (∀ k, s.ctrl.cst = .idle → k < s.ctrl.params.nslots → s.ctrl.pending.getLsbD k = true →
      (∀ j, j < k → s.ctrl.pending.getLsbD j = false) →
      s.arbitrate = .next { s with ctrl := s.ctrl.startRegistration k }) ∧
    (s.ctrl.cst = .idle → (∀ k, k < s.ctrl.params.nslots → s.ctrl.pending.getLsbD k = false) →
      (s.ctrl.cmdValid = false → s.arbitrate = .next s) ∧
      (s.ctrl.cmdValid = true → s.arbitrate = exec (decodeCommand s.ctrl.cmdLatched)
        { s with ctrl := { s.ctrl with cmdValid := false, curCmd := s.ctrl.cmdLatched }, active := .controller }))

/-- 42_controller_registration.md rules R262, R263, R265, R266: the start of a registration: no ID left, no settle wait,
and a settle wait. -/
def Obligations.RegistrationStarts : Prop :=
  ∀ (c c1 : Controller) (k : Nat), k < c.params.nslots → c.params.nslots ≤ 32 →
    c1 = { c with
      curSlot := BitVec.ofNat 5 k
      pending := setBit c.pending k false
      selOut := setBit c.selOut k true } →
    (c.nextId = 0xFF → c.startRegistration k = { c1 with
      selOut := setBit (setBit c.selOut k true) k false
      evtOvf := c.evtOvf || c.regEvt
      regEvent := { kind := .idExhausted, slot := BitVec.ofNat 8 k, id := 0x00 }
      regEvt := true
      cst := .idle }) ∧
    (c.nextId ≠ 0xFF → ∀ f, f = frameBytes c.params 0xFF 0x03 (c.nextId :: List.replicate 251 0x00) →
      (∀ i, (c.startRegistration k).record i =
        if i = c.nextId then { c.record i with status := .registering } else c.record i) ∧
      c.startRegistration k = { c1 with
        registry := (c.startRegistration k).registry
        curId := c.nextId
        nextId := c.nextId + 1
        attempts := 0
        txFrame := f
        settleCount := if c.params.tSettle = 0 then c.settleCount else c.params.tSettle
        framer := if c.params.tSettle = 0 then c.framer.send f else c.framer
        cst := if c.params.tSettle = 0 then .regTx else .regSettle })

/-- 42_controller_registration.md rules R271, R272: a failed attempt of a registration, and what counts as one (rule
R267). -/
def Obligations.RegistrationAttemptFails : Prop :=
  ∀ c : Controller, c.attempts.toNat ≤ c.params.rRetries.toNat →
    (c.cst = .regWait → c.timeout = c.regAttemptFailed) ∧
    (c.cst = .regTx → c.txError = Controller.regAttemptFailed { c with framer := { c.framer with txBusy := false } }) ∧
    (c.attempts.toNat < c.params.rRetries.toNat → c.regAttemptFailed = { c with
      attempts := c.attempts + 1
      framer := c.framer.send c.txFrame
      cst := .regTx }) ∧
    (c.attempts.toNat = c.params.rRetries.toNat →
      (∀ i, c.regAttemptFailed.record i =
        if i = c.curId then { c.record i with status := .unresponsive } else c.record i) ∧
      c.regAttemptFailed = { c with
        registry := c.regAttemptFailed.registry
        attempts := c.attempts + 1
        selOut := setBit c.selOut c.curSlot.toNat false
        evtOvf := c.evtOvf || c.regEvt
        regEvent := { kind := .failed, slot := c.curSlot.setWidth 8, id := c.curId }
        regEvt := true
        cst := .idle })

/-- 43_controller_commands.md rule R294: a failed attempt of a command, and what counts as one (rules R295, R297, R298).
-/
def Obligations.CommandAttemptFails : Prop :=
  ∀ c : Controller, c.attempts.toNat ≤ c.params.rRetries.toNat →
    (c.cst = .cmdWait → c.timeout = c.cmdAttemptFailed ∧
      ∀ b, c.decodeFailed (.checksumMismatch b) =
        Controller.cmdAttemptFailed { c with timerArmed := false, timerCount := 0 }) ∧
    (c.cst = .cmdTx → c.txError = Controller.cmdAttemptFailed { c with framer := { c.framer with txBusy := false } }) ∧
    (c.attempts.toNat < c.params.rRetries.toNat → c.cmdAttemptFailed = { c with
      attempts := c.attempts + 1
      framer := c.framer.send c.txFrame
      cst := .cmdTx }) ∧
    (c.attempts.toNat = c.params.rRetries.toNat →
      (opcOf c.curCmd = 0x05 → c.cmdAttemptFailed = { c.finished .unresponsive 0 0 with
        attempts := c.attempts + 1
        selOut := setBit c.selOut c.curSlot.toNat false }) ∧
      (opcOf c.curCmd = 0x04 → c.cmdAttemptFailed = { c.finished .transportError 0 0 with
        attempts := c.attempts + 1 }) ∧
      (opcOf c.curCmd ≠ 0x05 → opcOf c.curCmd ≠ 0x04 →
        (∀ i, c.cmdAttemptFailed.record i =
          if i = c.curId then { c.record i with status := .unresponsive } else c.record i) ∧
        c.cmdAttemptFailed = { c.finished .unresponsive 0 0 with
          attempts := c.attempts + 1
          registry := c.cmdAttemptFailed.registry }))

/-- The response timer: armed by `TxDone` of a request (42_controller_registration.md rule R267, 43_controller_commands.md rule
R295), which changes nothing else but `tx_busy` (40_framer_crc.md rule R177) and the state; it runs out on the T_TIMEOUT-th
tick after it and not before, and is then a failed attempt (60_exceptions.md rules R383, R384). Outside REG_TX and CMD_TX
the end of a transmission only clears `tx_busy`; the `TxDone` of a RESTART is `RestartCommand`. -/
def Obligations.ResponseTimer : Prop :=
  (∀ (c : Controller) (ticks : List (BitVec 32)), c.params.tTimeout ≠ 0 →
    (c.cst = .regTx ∨ (c.cst = .cmdTx ∧ opcOf c.curCmd ≠ 0x04)) →
    let waiting := c.txDone
    let later := ticks.foldl Controller.tick waiting
    waiting = { c with
      framer := { c.framer with txBusy := false }
      timerArmed := true
      timerCount := c.params.tTimeout
      cst := if c.cst = .regTx then .regWait else .cmdWait } ∧
    (ticks.length < c.params.tTimeout.toNat →
      later.cst = waiting.cst ∧ later.attempts = c.attempts ∧ later.timerArmed = true ∧
      later.timerCount.toNat = c.params.tTimeout.toNat - ticks.length) ∧
    (ticks.length = c.params.tTimeout.toNat →
      later.attempts = c.attempts + 1 ∧ later.timerArmed = false ∧ later.cst ≠ waiting.cst)) ∧
  (∀ c : Controller, c.cst ≠ .regTx → c.cst ≠ .cmdTx →
    c.txDone = { c with framer := { c.framer with txBusy := false } } ∧
    c.txError = { c with framer := { c.framer with txBusy := false } })

/-- A tick of the Controller, in the phases of 60_exceptions.md rule R378: NOW counts (rule R385); every Ready-Line is sampled
and its edges set and clear `pending` (44_line_arbiter.md rules R342, R344); the receiver counts its gap (40_framer_crc.md rule
R180); a settle wait counts down, and at 0 the latched frame is sent (42_controller_registration.md rule R265,
43_controller_commands.md rule R299); the response timer counts down (rule R383). When it does not run out, nothing else
changes. When it does in a wait state, `Timeout` is handled after that, by `RegistrationAttemptFails` or
`CommandAttemptFails`. In either case SEL of another slot, the Registry's other records, the command latch, the latched
frame, the target, the host's registers and buffers do not change. -/
def Obligations.ControllerTick : Prop :=
  ∀ (c : Controller) (levels : BitVec 32), c.params.nslots ≤ 32 →
    (c.tick levels).now = c.now + 1 ∧ (c.tick levels).readyPrev = c.readySync ∧
    (∀ k, k < c.params.nslots →
      (c.tick levels).readySync.getLsbD k = levels.getLsbD k ∧
      (c.tick levels).pending.getLsbD k =
        (if levels.getLsbD k = c.readySync.getLsbD k then c.pending.getLsbD k else levels.getLsbD k)) ∧
    (∀ k, c.params.nslots ≤ k → (c.tick levels).readySync.getLsbD k = false) ∧
    (c.tick levels).nextId = c.nextId ∧ (c.tick levels).cmdValid = c.cmdValid ∧
    (c.tick levels).cmdLatched = c.cmdLatched ∧ (c.tick levels).cmd = c.cmd ∧ (c.tick levels).irqEn = c.irqEn ∧
    (c.tick levels).curCmd = c.curCmd ∧ (c.tick levels).mem = c.mem ∧ (c.tick levels).txFrame = c.txFrame ∧
    (c.tick levels).curId = c.curId ∧ (c.tick levels).curSlot = c.curSlot ∧ (c.tick levels).params = c.params ∧
    (∀ i, i ≠ c.curId → (c.tick levels).record i = c.record i) ∧
    (∀ k, k ≠ c.curSlot.toNat → (c.tick levels).selOut.getLsbD k = c.selOut.getLsbD k) ∧
    (∀ fr, fr = (c.framer.gapTick c.params.tGap).1 →
      (c.cst = .regSettle ∨ c.cst = .cmdSettle → c.settleCount = 1 →
        (c.tick levels).settleCount = 0 ∧ (c.tick levels).framer = fr.send c.txFrame ∧
        (c.tick levels).cst = if c.cst = .regSettle then .regTx else .cmdTx) ∧
      (c.cst = .regSettle ∨ c.cst = .cmdSettle → c.settleCount ≠ 1 →
        (c.tick levels).settleCount = c.settleCount - 1 ∧ (c.tick levels).framer = fr ∧
        (c.tick levels).cst = c.cst) ∧
      (c.cst ≠ .regSettle → c.cst ≠ .cmdSettle → c.timerArmed = false ∨ c.timerCount ≠ 1 →
        (c.tick levels).framer = fr ∧ (c.tick levels).cst = c.cst) ∧
      (c.cst = .regWait ∨ c.cst = .cmdWait → c.timerArmed = true → c.timerCount = 1 →
        c.tick levels = Controller.timeout { c with
          now := c.now + 1
          readyPrev := c.readySync
          readySync := (c.tick levels).readySync
          pending := (c.tick levels).pending
          framer := fr
          timerArmed := false
          timerCount := 0 })) ∧
    (c.cst ≠ .regSettle → c.cst ≠ .cmdSettle → (c.tick levels).settleCount = c.settleCount) ∧
    (c.timerArmed = false ∨ c.timerCount ≠ 1 →
      c.tick levels = { c with
        now := c.now + 1
        readyPrev := c.readySync
        readySync := (c.tick levels).readySync
        pending := (c.tick levels).pending
        framer := (c.tick levels).framer
        settleCount := (c.tick levels).settleCount
        cst := (c.tick levels).cst
        timerCount := if c.timerArmed then c.timerCount - 1 else c.timerCount })

/-! ### The host interfaces -/

/-- 20_memory.md rules R101, R103, R104: an illegal access changes no state and is answered with an error; a legal access is
answered, a read changes nothing of any core, and a write does what the register's rule says (at the Controller
`arbitrate()` follows; log entry 14). What each register reads, and what a write does to IRQ_EN, METRICS_LEN, OPTIONS_LEN,
the read-only registers and the reserved offsets (10_state.md rules R40..R67); CMD is `CommandWrite`, STATUS and EVENTS are
`FlagsAcknowledged`, the writable buffers `BufferWords`. And the code of each enumerated value that a word shows (rules
R36, R45, R57 of that file and 60_exceptions.md rule R361). -/
def Obligations.HostAccess : Prop :=
  (∀ (s : State) (n : Node) (addr : BitVec 12) (size : Nat) (v : Word) (ev : Event) (rest : List (List Event)),
    s.inputs = [ev] :: rest → (s.params n).isSome = true → ¬(size = 4 ∧ addr.toNat % 4 = 0) →
    (ev = .memRead n addr size ∨ ev = .memWrite n addr size v) →
    step s = .next { s with inputs := rest, reply := { error := true, data := 0x00000000 } }) ∧
  (∀ (s : State) (k : Nat) (e : Extension) (addr : BitVec 12) (rest : List (List Event)),
    s.inputs = [.memRead (.slot k) addr 4] :: rest → s.board k = some e → e.framer.outbox = none →
    addr.toNat % 4 = 0 →
    step s = .next { s with
      inputs := rest, reply := { error := false, data := e.wordAt addr.toNat }, active := .slot k }) ∧
  (∀ (s : State) (k : Nat) (e : Extension) (addr : BitVec 12) (v : Word) (rest : List (List Event)),
    s.inputs = [.memWrite (.slot k) addr 4 v] :: rest → s.board k = some e → e.framer.outbox = none →
    addr.toNat % 4 = 0 →
    step s = .next ({ s with
      inputs := rest, reply := { error := false, data := 0 }, active := .slot k }.setBoard k (e.applyWrite addr.toNat v))) ∧
  (∀ (s : State) (addr : BitVec 12) (v : Word) (rest : List (List Event)), addr.toNat % 4 = 0 →
    let taken := { s with inputs := rest }
    (s.inputs = [.memRead .controller addr 4] :: rest → step s = endStep taken .controller (.next { taken with
      reply := { error := false, data := s.ctrl.wordAt addr.toNat }, active := .controller })) ∧
    (s.inputs = [.memWrite .controller addr 4 v] :: rest → step s = endStep taken .controller (.next { taken with
      ctrl := s.ctrl.applyWrite addr.toNat v, reply := { error := false, data := 0 }, active := .controller }))) ∧
  (∀ c : Controller,
    c.wordAt 0x000 = 0x43#8 ++ c.params.rRetries ++ BitVec.ofNat 8 c.params.nslots ++ c.params.protocolVersion ∧
    c.wordAt 0x004 = c.params.tTimeout ∧ c.wordAt 0x008 = c.cmd ∧
    c.wordAt 0x00C = c.respInfo ++ c.respLen ++ c.result.code ++ (0#2 ++
      BitVec.ofBool (c.cst = .regSettle ∨ c.cst = .regTx ∨ c.cst = .regWait) ++ BitVec.ofBool c.cmdDropped ++
      BitVec.ofBool c.evtOvf ++ BitVec.ofBool c.regEvt ++ BitVec.ofBool c.done ++
      BitVec.ofBool (c.cmdValid = true ∨ c.cst = .cmdSettle ∨ c.cst = .cmdTx ∨ c.cst = .cmdWait)) ∧
    c.wordAt 0x010 = 0x00#8 ++ c.regEvent.id ++ c.regEvent.slot ++ c.regEvent.kind.code ∧
    c.wordAt 0x014 = 0#27 ++ c.irqEn ++ 0#1 ∧ c.wordAt 0x018 = 0#24 ++ c.nextId ∧ c.wordAt 0x01C = c.now ∧
    (∀ k, k < 32 →
      (c.wordAt 0x020).getLsbD k = (k < c.params.nslots && c.readySync.getLsbD k) ∧
      (c.wordAt 0x024).getLsbD k = (k < c.params.nslots && c.selOut.getLsbD k) ∧
      (c.wordAt 0x028).getLsbD k = (k < c.params.nslots && c.pending.getLsbD k)) ∧
    c.wordAt 0x02C = c.params.tSettle ++ c.params.tGap ∧
    c.wordAt 0x030 = 0x00#8 ++ c.params.crcXorout ++ c.params.crcInit ++ c.params.crcPoly ∧
    (∀ i : Byte, c.wordAt (0x800 + 8 * i.toNat) = 0#29 ++ (c.record i).status.code ∧
      c.wordAt (0x804 + 8 * i.toNat) = (c.record i).last) ∧
    (∀ a j, 0x100 ≤ a → a < 0x300 → j < 4 → (c.wordAt a).extractLsb' (8 * j) 8 = Memory.read c.mem (a + j)) ∧
    (∀ a, a % 4 = 0 → (0x034 ≤ a ∧ a < 0x100) ∨ (0x300 ≤ a ∧ a < 0x800) → c.wordAt a = 0) ∧
    (∀ v, c.applyWrite 0x014 v = { c with irqEn := v.extractLsb' 1 4 }) ∧
    (∀ a v, a ≠ 0x008 → a ≠ 0x00C → a ≠ 0x014 → a < 0x100 ∨ 0x200 ≤ a → c.applyWrite a v = c)) ∧
  (∀ e : Extension,
    e.wordAt 0x000 = 0x45#8 ++ 0x0000#16 ++ e.params.protocolVersion ∧
    e.wordAt 0x004 =
      0#14 ++ BitVec.ofBool e.selSync ++ BitVec.ofBool e.readyOut ++ e.extId ++ 0#6 ++ e.est.code ∧
    e.wordAt 0x008 = 0#28 ++ e.events ∧ e.wordAt 0x00C = 0#28 ++ e.irqEn ∧ e.wordAt 0x010 = 0#24 ++ e.metricsLen ∧
    e.wordAt 0x014 = 0#24 ++ e.optionsLen ∧ e.wordAt 0x018 = 0#24 ++ e.configLen ∧
    e.wordAt 0x030 = 0x00#8 ++ e.params.crcXorout ++ e.params.crcInit ++ e.params.crcPoly ∧
    (∀ a j, 0x100 ≤ a → a < 0x400 → j < 4 → (e.wordAt a).extractLsb' (8 * j) 8 = Memory.read e.mem (a + j)) ∧
    (∀ a, (0x01C ≤ a ∧ a < 0x030) ∨ (0x034 ≤ a ∧ a < 0x100) ∨ 0x400 ≤ a → e.wordAt a = 0) ∧
    (∀ v, e.applyWrite 0x00C v = { e with irqEn := v.extractLsb' 0 4 } ∧
      e.applyWrite 0x010 v = { e with metricsLen := v.extractLsb' 0 8 } ∧
      e.applyWrite 0x014 v = { e with optionsLen := v.extractLsb' 0 8 }) ∧
    (∀ a v, a ≠ 0x008 → a ≠ 0x00C → a ≠ 0x010 → a ≠ 0x014 → a < 0x100 ∨ 0x300 ≤ a → e.applyWrite a v = e)) ∧
  (RecStatus.absent.code = 0 ∧ RecStatus.unregistered.code = 1 ∧ RecStatus.registering.code = 2 ∧
    RecStatus.registered.code = 3 ∧ RecStatus.unresponsive.code = 4) ∧
  (RegKind.none.code = 0 ∧ RegKind.registered.code = 1 ∧ RegKind.failed.code = 2 ∧ RegKind.idExhausted.code = 3) ∧
  (EState.uninitialized.code = 0 ∧ EState.selected.code = 1 ∧ EState.registered.code = 2) ∧
  (ResultCode.ok.code = 0x00 ∧ ResultCode.rejected.code = 0x01 ∧ ResultCode.unresponsive.code = 0x02 ∧
    ResultCode.noSuchExtension.code = 0x03 ∧ ResultCode.notRegistered.code = 0x04 ∧ ResultCode.formatError.code = 0x05 ∧
    ResultCode.badCommand.code = 0x06 ∧ ResultCode.badTarget.code = 0x07 ∧ ResultCode.transportError.code = 0x08)

/-- 20_memory.md rule R102: the buffers are little-endian; a word written is the word read, byte by byte, and no other byte of
the buffers, no other word of the interface and nothing else of the core changes: not the frame a command has latched, so
a write to TXBUF after its start does not affect it or its retries (rule R110), nor one that a board has built (rule
R111). -/
def Obligations.BufferWords : Prop :=
  (∀ (c : Controller) (a : Nat) (v : Word), 0x100 ≤ a → a < 0x200 → a % 4 = 0 →
    (c.applyWrite a v).wordAt a = v ∧
    (∀ j, j < 4 → Memory.read (c.applyWrite a v).mem (a + j) = v.extractLsb' (8 * j) 8) ∧
    (∀ a', a' % 4 = 0 → a' ≠ a → (c.applyWrite a v).wordAt a' = c.wordAt a') ∧
    (∀ b, b < a ∨ a + 4 ≤ b → Memory.read (c.applyWrite a v).mem b = Memory.read c.mem b) ∧
    c.applyWrite a v = { c with mem := (c.applyWrite a v).mem }) ∧
  (∀ (e : Extension) (a : Nat) (v : Word), 0x100 ≤ a → a < 0x300 → a % 4 = 0 →
    (e.applyWrite a v).wordAt a = v ∧
    (∀ j, j < 4 → Memory.read (e.applyWrite a v).mem (a + j) = v.extractLsb' (8 * j) 8) ∧
    (∀ a', a' % 4 = 0 → a' ≠ a → (e.applyWrite a v).wordAt a' = e.wordAt a') ∧
    (∀ b, b < a ∨ a + 4 ≤ b → Memory.read (e.applyWrite a v).mem b = Memory.read e.mem b) ∧
    e.applyWrite a v = { e with mem := (e.applyWrite a v).mem })

/-- 10_state.md rules R44 and R62, 60_exceptions.md rule R367: a write to STATUS or EVENTS clears exactly the flags written
as 1 and changes no other word the host can read and nothing else of the core. -/
def Obligations.FlagsAcknowledged : Prop :=
  (∀ (c : Controller) (v : Word),
    (c.applyWrite 0x00C v).wordAt 0x00C = c.wordAt 0x00C &&& ~~~(v &&& 0x0000001E#32) ∧
    (∀ a, a ≠ 0x00C → (c.applyWrite 0x00C v).wordAt a = c.wordAt a) ∧
    c.applyWrite 0x00C v = { c with
      done := c.done && !v.getLsbD 1
      regEvt := c.regEvt && !v.getLsbD 2
      evtOvf := c.evtOvf && !v.getLsbD 3
      cmdDropped := c.cmdDropped && !v.getLsbD 4 }) ∧
  (∀ (e : Extension) (v : Word),
    (e.applyWrite 0x008 v).wordAt 0x008 = e.wordAt 0x008 &&& ~~~v ∧
    (∀ a, a ≠ 0x008 → (e.applyWrite 0x008 v).wordAt a = e.wordAt a) ∧
    e.applyWrite 0x008 v = { e with events := e.events &&& ~~~(v.extractLsb' 0 4) })

/-- 60_exceptions.md rule R370: the two interrupt outputs, in terms of the words the host reads. -/
def Obligations.InterruptOutputs : Prop :=
  (∀ c : Controller, c.irq = true ↔
    ∃ b, 1 ≤ b ∧ b ≤ 4 ∧ (c.wordAt 0x00C).getLsbD b = true ∧ (c.wordAt 0x014).getLsbD b = true) ∧
  (∀ e : Extension, e.irq = true ↔
    ∃ i, i ≤ 3 ∧ (e.wordAt 0x008).getLsbD i = true ∧ (e.wordAt 0x00C).getLsbD i = true) ∧
  (∀ (p : Params) (levels : BitVec 32) (d : Nat), (resetController p levels d).irq = false) ∧
  (∀ (p : Params) (sel : Bool) (d : Nat), (resetExtension p sel d).irq = false)

/-! ### Reset, invariants, whole-machine rules -/

/-- 70_reset_and_hazards.md rules R401, R402: the reset values the spec gives (the buffers are left unspecified), and that
the reset inputs give them. A reset abandons a transmission in progress (rule R403). A board's reset drives its READY high
if it was not; the Controller's drives every SEL low that was high, and then arbitrates on the sampled Ready-Lines. The
removal of a board releases its READY and abandons its transmission, and its insertion is its reset in an empty slot
(60_exceptions.md rule R382); neither touches another slot's lines and board or the Controller. (The levels in flight, the
wires, and attach and detach as events are the model's own: log entries 10, 11, 19.) -/
def Obligations.ResetValues : Prop :=
  (∀ (p : Params) (levels : BitVec 32) (d : Nat) (c : Controller), c = resetController p levels d →
    c.params = p ∧ c.cst = .idle ∧ c.curSlot = 0 ∧ c.curId = 0x00 ∧ c.attempts = 0 ∧ c.curCmd = 0 ∧
    c.expType = 0x00 ∧ c.settleCount = 0 ∧ c.timerArmed = false ∧ c.timerCount = 0 ∧ c.now = 0 ∧
    (∀ k, k < p.nslots → k < 32 → c.readySync.getLsbD k = levels.getLsbD k) ∧ c.readyPrev = 0 ∧
    c.pending = c.readySync ∧ c.selOut = 0 ∧ (∀ i, c.record i = { status := .absent, last := 0 }) ∧
    c.nextId = 0x01 ∧ c.framer.rxCount = 0 ∧ c.framer.gapCount = 0 ∧ c.framer.txBusy = false ∧
    c.cmdValid = false ∧ c.cmdLatched = 0 ∧ c.wordAt 0x008 = 0x00000000 ∧ c.wordAt 0x00C = 0x00000000 ∧
    c.wordAt 0x010 = 0 ∧ c.wordAt 0x014 = 0) ∧
  (∀ (p : Params) (sel : Bool) (d : Nat) (e : Extension), e = resetExtension p sel d →
    e.params = p ∧ e.est = (if sel then .selected else .uninitialized) ∧ e.extId = 0x00 ∧ e.readyOut = true ∧
    e.selSync = sel ∧ e.selPrev = false ∧ e.framer.rxCount = 0 ∧ e.framer.gapCount = 0 ∧
    e.framer.txBusy = false ∧ e.events = 0 ∧ e.irqEn = 0 ∧ e.metricsLen = 0 ∧ e.optionsLen = 0 ∧
    e.configLen = 0) ∧
  (∀ (s : State) (n : Node), (s.busy n = true → s.abandon n = s.giveUp n) ∧ (s.busy n = false → s.abandon n = s)) ∧
  (∀ (s : State) (k : Nat) (e : Extension) (sl : Slot) (rest : List (List Event)),
    s.inputs = [.reset (.slot k)] :: rest → s.slots[k]? = some sl → sl.board = some e →
    ∃ t, step s = .next t ∧
      t = { s.abandon (.slot k) with
        inputs := rest, slots := t.slots, active := .slot k, draws := s.draws + 1 } ∧
      t.slots[k]? = some { sl with
        board := some (resetExtension e.params sl.sel.level s.draws)
        ready := if e.readyOut then sl.ready else { sl.ready with inFlight := sl.ready.inFlight ++ [true] }
        wire := (s.abandon (.slot k)).wire (.slot k) } ∧
      (∀ j, j ≠ k → t.slots[j]? = (s.abandon (.slot k)).slots[j]?)) ∧
  (∀ (s : State) (rest : List (List Event)), s.inputs = [.reset .controller] :: rest →
    ∃ low, step s = endStep low .controller (.next low) ∧
      low = { s.abandon .controller with
        inputs := rest, slots := low.slots, active := .controller, draws := s.draws + 1
        ctrl := resetController s.ctrl.params s.readyLevels s.draws } ∧
      (∀ k : Nat, low.slots[k]? = ((s.abandon .controller).slots[k]?).map (fun sl => { sl with
        sel := if s.ctrl.selOut.getLsbD k then { sl.sel with inFlight := sl.sel.inFlight ++ [false] } else sl.sel })) ∧
      ((∀ k, k < s.ctrl.params.nslots → s.readyLevels.getLsbD k = false) → step s = .next low) ∧
      (∀ k, k < s.ctrl.params.nslots → s.readyLevels.getLsbD k = true →
        (∀ j, j < k → s.readyLevels.getLsbD j = false) →
        step s = .next (State.driveLines
          (State.transmit { low with ctrl := low.ctrl.startRegistration k } .controller) low))) ∧
  (∀ (s : State) (n : Node) (k : Nat) (sl : Slot), s.slots[k]? = some sl →
    ∃ w, (s.abandon n).slots[k]? = some { sl with wire := w }) ∧
  (∀ (s : State) (k : Nat) (p : Params) (rest : List (List Event)), s.inputs = [.attach k p] :: rest →
    (∀ sl, s.slots[k]? = some sl → sl.board = none → p.ok →
      step s = .next { s with
        inputs := rest
        slots := s.slots.set k { sl with
          board := some (resetExtension p sl.sel.level s.draws)
          ready := { sl.ready with inFlight := sl.ready.inFlight ++ [true] }
          wire := [] }
        active := .slot k
        draws := s.draws + 1 }) ∧
    (s.slots[k]? = none ∨ (∃ e, s.board k = some e) ∨ ¬p.ok → step s = .next { s with inputs := rest })) ∧
  (∀ (s : State) (k : Nat) (rest : List (List Event)), s.inputs = [.detach k] :: rest →
    (∀ sl e, s.slots[k]? = some sl → sl.board = some e →
      ∃ t, step s = .next t ∧
        t = { s.abandon (.slot k) with inputs := rest, slots := t.slots, draws := s.draws + 1 } ∧
        t.slots[k]? = some { sl with
          board := none
          ready := if e.readyOut then { sl.ready with inFlight := sl.ready.inFlight ++ [false] } else sl.ready
          wire := [] } ∧
        (∀ j, j ≠ k → t.slots[j]? = (s.abandon (.slot k)).slots[j]?)) ∧
    (s.board k = none → step s = .next { s with inputs := rest }))

/-- The model's state after reset meets the invariant. The bus of `State.reset`, its parameters and what its buffers hold
are the model's choice (log entries 1, 2, 4). -/
def Obligations.ResetInv : Prop := State.reset.Inv

/-- Every step keeps the invariant (42_controller_registration.md rule R275, 44_line_arbiter.md rules R347, R348, 10_state.md
rules R36, R37, R57, R58, and the canonical form of every memory). -/
def Obligations.StepKeepsInv : Prop := ∀ s t : State, s.Inv → step s = .next t → t.Inv

/-- No step stops the machine: every state has a next one (60_exceptions.md rule R364). -/
def Obligations.NeverStops : Prop := ∀ s : State, ∃ t, step s = .next t

/-- 44_line_arbiter.md rules R347, R348: at most one Selection-Line is asserted, and none in IDLE or in a command that is
not PROBE. -/
def Obligations.OneSelectionLine : Prop :=
  ∀ c : Controller, c.Inv →
    (∀ j k, c.selOut.getLsbD j = true → c.selOut.getLsbD k = true → j = k) ∧
    (∀ k, c.selOut.getLsbD k = true → k < c.params.nslots ∧ c.curSlot.toNat = k) ∧
    (c.cst = .idle → c.selOut = 0) ∧ (c.cst.isCmd = true → opcOf c.curCmd ≠ 0x05 → c.selOut = 0)

/-- 00_scope.md rule R10: the parameters of a core never change while it runs. -/
def Obligations.ParametersFixed : Prop :=
  ∀ s t : State, step s = .next t →
    t.ctrl.params = s.ctrl.params ∧
    ∀ k e e', s.board k = some e → t.board k = some e' → e'.params = e.params

/-- 42_controller_registration.md rules R263, R275 (c): no step gives an ID back, but for the Controller's reset and a
RESET_REGISTRY. -/
def Obligations.IdsNeverReused : Prop :=
  ∀ (s t : State) (ev : Event) (rest : List (List Event)), s.inputs = [ev] :: rest → ev ≠ .reset .controller →
    (s.ctrl.cmdValid = true → opcOf s.ctrl.cmdLatched ≠ 0x06) → (∀ w, ev = .memWrite .controller 0x008 4 w → opcOf w ≠ 0x06) →
    step s = .next t → s.ctrl.nextId.toNat ≤ t.ctrl.nextId.toNat
end

