-- ==== Sys2Proof/Laws/State.lean ====
section
/-! SUPPORT. One lemma per field per update: what each named update of a record leaves in each field. -/

namespace Sys2Proof.Machine

/-! ### Framer.send -/

@[simp] theorem Framer.send_rxBuf (x : Framer) (f : List Byte) :
    (x.send f).rxBuf = x.rxBuf := rfl
@[simp] theorem Framer.send_rxCount (x : Framer) (f : List Byte) :
    (x.send f).rxCount = 0 := rfl
@[simp] theorem Framer.send_gapCount (x : Framer) (f : List Byte) :
    (x.send f).gapCount = 0 := rfl
@[simp] theorem Framer.send_txBusy (x : Framer) (f : List Byte) :
    (x.send f).txBusy = true := rfl
@[simp] theorem Framer.send_outbox (x : Framer) (f : List Byte) :
    (x.send f).outbox = some f := rfl

/-! ### Framer.endSend -/

@[simp] theorem Framer.endSend_rxBuf (x : Framer) :
    (x.endSend).rxBuf = x.rxBuf := rfl
@[simp] theorem Framer.endSend_rxCount (x : Framer) :
    (x.endSend).rxCount = x.rxCount := rfl
@[simp] theorem Framer.endSend_gapCount (x : Framer) :
    (x.endSend).gapCount = x.gapCount := rfl
@[simp] theorem Framer.endSend_txBusy (x : Framer) :
    (x.endSend).txBusy = false := rfl
@[simp] theorem Framer.endSend_outbox (x : Framer) :
    (x.endSend).outbox = x.outbox := rfl

/-! ### Controller.send -/

@[simp] theorem Controller.send_params (x : Controller) (f : List Byte) :
    (x.send f).params = x.params := rfl
@[simp] theorem Controller.send_cst (x : Controller) (f : List Byte) :
    (x.send f).cst = x.cst := rfl
@[simp] theorem Controller.send_curSlot (x : Controller) (f : List Byte) :
    (x.send f).curSlot = x.curSlot := rfl
@[simp] theorem Controller.send_curId (x : Controller) (f : List Byte) :
    (x.send f).curId = x.curId := rfl
@[simp] theorem Controller.send_attempts (x : Controller) (f : List Byte) :
    (x.send f).attempts = x.attempts := rfl
@[simp] theorem Controller.send_curCmd (x : Controller) (f : List Byte) :
    (x.send f).curCmd = x.curCmd := rfl
@[simp] theorem Controller.send_expType (x : Controller) (f : List Byte) :
    (x.send f).expType = x.expType := rfl
@[simp] theorem Controller.send_txFrame (x : Controller) (f : List Byte) :
    (x.send f).txFrame = x.txFrame := rfl
@[simp] theorem Controller.send_settleCount (x : Controller) (f : List Byte) :
    (x.send f).settleCount = x.settleCount := rfl
@[simp] theorem Controller.send_timerArmed (x : Controller) (f : List Byte) :
    (x.send f).timerArmed = x.timerArmed := rfl
@[simp] theorem Controller.send_timerCount (x : Controller) (f : List Byte) :
    (x.send f).timerCount = x.timerCount := rfl
@[simp] theorem Controller.send_now (x : Controller) (f : List Byte) :
    (x.send f).now = x.now := rfl
@[simp] theorem Controller.send_readySync (x : Controller) (f : List Byte) :
    (x.send f).readySync = x.readySync := rfl
@[simp] theorem Controller.send_readyPrev (x : Controller) (f : List Byte) :
    (x.send f).readyPrev = x.readyPrev := rfl
@[simp] theorem Controller.send_pending (x : Controller) (f : List Byte) :
    (x.send f).pending = x.pending := rfl
@[simp] theorem Controller.send_selOut (x : Controller) (f : List Byte) :
    (x.send f).selOut = x.selOut := rfl
@[simp] theorem Controller.send_registry (x : Controller) (f : List Byte) :
    (x.send f).registry = x.registry := rfl
@[simp] theorem Controller.send_nextId (x : Controller) (f : List Byte) :
    (x.send f).nextId = x.nextId := rfl
@[simp] theorem Controller.send_framer (x : Controller) (f : List Byte) :
    (x.send f).framer = x.framer.send f := rfl
@[simp] theorem Controller.send_cmdValid (x : Controller) (f : List Byte) :
    (x.send f).cmdValid = x.cmdValid := rfl
@[simp] theorem Controller.send_cmdLatched (x : Controller) (f : List Byte) :
    (x.send f).cmdLatched = x.cmdLatched := rfl
@[simp] theorem Controller.send_cmd (x : Controller) (f : List Byte) :
    (x.send f).cmd = x.cmd := rfl
@[simp] theorem Controller.send_done (x : Controller) (f : List Byte) :
    (x.send f).done = x.done := rfl
@[simp] theorem Controller.send_regEvt (x : Controller) (f : List Byte) :
    (x.send f).regEvt = x.regEvt := rfl
@[simp] theorem Controller.send_evtOvf (x : Controller) (f : List Byte) :
    (x.send f).evtOvf = x.evtOvf := rfl
@[simp] theorem Controller.send_cmdDropped (x : Controller) (f : List Byte) :
    (x.send f).cmdDropped = x.cmdDropped := rfl
@[simp] theorem Controller.send_result (x : Controller) (f : List Byte) :
    (x.send f).result = x.result := rfl
@[simp] theorem Controller.send_respLen (x : Controller) (f : List Byte) :
    (x.send f).respLen = x.respLen := rfl
@[simp] theorem Controller.send_respInfo (x : Controller) (f : List Byte) :
    (x.send f).respInfo = x.respInfo := rfl
@[simp] theorem Controller.send_regEvent (x : Controller) (f : List Byte) :
    (x.send f).regEvent = x.regEvent := rfl
@[simp] theorem Controller.send_irqEn (x : Controller) (f : List Byte) :
    (x.send f).irqEn = x.irqEn := rfl
@[simp] theorem Controller.send_mem (x : Controller) (f : List Byte) :
    (x.send f).mem = x.mem := rfl

/-! ### Controller.arm -/

@[simp] theorem Controller.arm_params (x : Controller) (n : BitVec 32) :
    (x.arm n).params = x.params := rfl
@[simp] theorem Controller.arm_cst (x : Controller) (n : BitVec 32) :
    (x.arm n).cst = x.cst := rfl
@[simp] theorem Controller.arm_curSlot (x : Controller) (n : BitVec 32) :
    (x.arm n).curSlot = x.curSlot := rfl
@[simp] theorem Controller.arm_curId (x : Controller) (n : BitVec 32) :
    (x.arm n).curId = x.curId := rfl
@[simp] theorem Controller.arm_attempts (x : Controller) (n : BitVec 32) :
    (x.arm n).attempts = x.attempts := rfl
@[simp] theorem Controller.arm_curCmd (x : Controller) (n : BitVec 32) :
    (x.arm n).curCmd = x.curCmd := rfl
@[simp] theorem Controller.arm_expType (x : Controller) (n : BitVec 32) :
    (x.arm n).expType = x.expType := rfl
@[simp] theorem Controller.arm_txFrame (x : Controller) (n : BitVec 32) :
    (x.arm n).txFrame = x.txFrame := rfl
@[simp] theorem Controller.arm_settleCount (x : Controller) (n : BitVec 32) :
    (x.arm n).settleCount = x.settleCount := rfl
@[simp] theorem Controller.arm_timerArmed (x : Controller) (n : BitVec 32) :
    (x.arm n).timerArmed = true := rfl
@[simp] theorem Controller.arm_timerCount (x : Controller) (n : BitVec 32) :
    (x.arm n).timerCount = n := rfl
@[simp] theorem Controller.arm_now (x : Controller) (n : BitVec 32) :
    (x.arm n).now = x.now := rfl
@[simp] theorem Controller.arm_readySync (x : Controller) (n : BitVec 32) :
    (x.arm n).readySync = x.readySync := rfl
@[simp] theorem Controller.arm_readyPrev (x : Controller) (n : BitVec 32) :
    (x.arm n).readyPrev = x.readyPrev := rfl
@[simp] theorem Controller.arm_pending (x : Controller) (n : BitVec 32) :
    (x.arm n).pending = x.pending := rfl
@[simp] theorem Controller.arm_selOut (x : Controller) (n : BitVec 32) :
    (x.arm n).selOut = x.selOut := rfl
@[simp] theorem Controller.arm_registry (x : Controller) (n : BitVec 32) :
    (x.arm n).registry = x.registry := rfl
@[simp] theorem Controller.arm_nextId (x : Controller) (n : BitVec 32) :
    (x.arm n).nextId = x.nextId := rfl
@[simp] theorem Controller.arm_framer (x : Controller) (n : BitVec 32) :
    (x.arm n).framer = x.framer := rfl
@[simp] theorem Controller.arm_cmdValid (x : Controller) (n : BitVec 32) :
    (x.arm n).cmdValid = x.cmdValid := rfl
@[simp] theorem Controller.arm_cmdLatched (x : Controller) (n : BitVec 32) :
    (x.arm n).cmdLatched = x.cmdLatched := rfl
@[simp] theorem Controller.arm_cmd (x : Controller) (n : BitVec 32) :
    (x.arm n).cmd = x.cmd := rfl
@[simp] theorem Controller.arm_done (x : Controller) (n : BitVec 32) :
    (x.arm n).done = x.done := rfl
@[simp] theorem Controller.arm_regEvt (x : Controller) (n : BitVec 32) :
    (x.arm n).regEvt = x.regEvt := rfl
@[simp] theorem Controller.arm_evtOvf (x : Controller) (n : BitVec 32) :
    (x.arm n).evtOvf = x.evtOvf := rfl
@[simp] theorem Controller.arm_cmdDropped (x : Controller) (n : BitVec 32) :
    (x.arm n).cmdDropped = x.cmdDropped := rfl
@[simp] theorem Controller.arm_result (x : Controller) (n : BitVec 32) :
    (x.arm n).result = x.result := rfl
@[simp] theorem Controller.arm_respLen (x : Controller) (n : BitVec 32) :
    (x.arm n).respLen = x.respLen := rfl
@[simp] theorem Controller.arm_respInfo (x : Controller) (n : BitVec 32) :
    (x.arm n).respInfo = x.respInfo := rfl
@[simp] theorem Controller.arm_regEvent (x : Controller) (n : BitVec 32) :
    (x.arm n).regEvent = x.regEvent := rfl
@[simp] theorem Controller.arm_irqEn (x : Controller) (n : BitVec 32) :
    (x.arm n).irqEn = x.irqEn := rfl
@[simp] theorem Controller.arm_mem (x : Controller) (n : BitVec 32) :
    (x.arm n).mem = x.mem := rfl

/-! ### Controller.disarm -/

@[simp] theorem Controller.disarm_params (x : Controller) :
    (x.disarm).params = x.params := rfl
@[simp] theorem Controller.disarm_cst (x : Controller) :
    (x.disarm).cst = x.cst := rfl
@[simp] theorem Controller.disarm_curSlot (x : Controller) :
    (x.disarm).curSlot = x.curSlot := rfl
@[simp] theorem Controller.disarm_curId (x : Controller) :
    (x.disarm).curId = x.curId := rfl
@[simp] theorem Controller.disarm_attempts (x : Controller) :
    (x.disarm).attempts = x.attempts := rfl
@[simp] theorem Controller.disarm_curCmd (x : Controller) :
    (x.disarm).curCmd = x.curCmd := rfl
@[simp] theorem Controller.disarm_expType (x : Controller) :
    (x.disarm).expType = x.expType := rfl
@[simp] theorem Controller.disarm_txFrame (x : Controller) :
    (x.disarm).txFrame = x.txFrame := rfl
@[simp] theorem Controller.disarm_settleCount (x : Controller) :
    (x.disarm).settleCount = x.settleCount := rfl
@[simp] theorem Controller.disarm_timerArmed (x : Controller) :
    (x.disarm).timerArmed = false := rfl
@[simp] theorem Controller.disarm_timerCount (x : Controller) :
    (x.disarm).timerCount = 0 := rfl
@[simp] theorem Controller.disarm_now (x : Controller) :
    (x.disarm).now = x.now := rfl
@[simp] theorem Controller.disarm_readySync (x : Controller) :
    (x.disarm).readySync = x.readySync := rfl
@[simp] theorem Controller.disarm_readyPrev (x : Controller) :
    (x.disarm).readyPrev = x.readyPrev := rfl
@[simp] theorem Controller.disarm_pending (x : Controller) :
    (x.disarm).pending = x.pending := rfl
@[simp] theorem Controller.disarm_selOut (x : Controller) :
    (x.disarm).selOut = x.selOut := rfl
@[simp] theorem Controller.disarm_registry (x : Controller) :
    (x.disarm).registry = x.registry := rfl
@[simp] theorem Controller.disarm_nextId (x : Controller) :
    (x.disarm).nextId = x.nextId := rfl
@[simp] theorem Controller.disarm_framer (x : Controller) :
    (x.disarm).framer = x.framer := rfl
@[simp] theorem Controller.disarm_cmdValid (x : Controller) :
    (x.disarm).cmdValid = x.cmdValid := rfl
@[simp] theorem Controller.disarm_cmdLatched (x : Controller) :
    (x.disarm).cmdLatched = x.cmdLatched := rfl
@[simp] theorem Controller.disarm_cmd (x : Controller) :
    (x.disarm).cmd = x.cmd := rfl
@[simp] theorem Controller.disarm_done (x : Controller) :
    (x.disarm).done = x.done := rfl
@[simp] theorem Controller.disarm_regEvt (x : Controller) :
    (x.disarm).regEvt = x.regEvt := rfl
@[simp] theorem Controller.disarm_evtOvf (x : Controller) :
    (x.disarm).evtOvf = x.evtOvf := rfl
@[simp] theorem Controller.disarm_cmdDropped (x : Controller) :
    (x.disarm).cmdDropped = x.cmdDropped := rfl
@[simp] theorem Controller.disarm_result (x : Controller) :
    (x.disarm).result = x.result := rfl
@[simp] theorem Controller.disarm_respLen (x : Controller) :
    (x.disarm).respLen = x.respLen := rfl
@[simp] theorem Controller.disarm_respInfo (x : Controller) :
    (x.disarm).respInfo = x.respInfo := rfl
@[simp] theorem Controller.disarm_regEvent (x : Controller) :
    (x.disarm).regEvent = x.regEvent := rfl
@[simp] theorem Controller.disarm_irqEn (x : Controller) :
    (x.disarm).irqEn = x.irqEn := rfl
@[simp] theorem Controller.disarm_mem (x : Controller) :
    (x.disarm).mem = x.mem := rfl

/-! ### Controller.setRecord -/

@[simp] theorem Controller.setRecord_params (x : Controller) (i : Byte) (r : Record) :
    (x.setRecord i r).params = x.params := rfl
@[simp] theorem Controller.setRecord_cst (x : Controller) (i : Byte) (r : Record) :
    (x.setRecord i r).cst = x.cst := rfl
@[simp] theorem Controller.setRecord_curSlot (x : Controller) (i : Byte) (r : Record) :
    (x.setRecord i r).curSlot = x.curSlot := rfl
@[simp] theorem Controller.setRecord_curId (x : Controller) (i : Byte) (r : Record) :
    (x.setRecord i r).curId = x.curId := rfl
@[simp] theorem Controller.setRecord_attempts (x : Controller) (i : Byte) (r : Record) :
    (x.setRecord i r).attempts = x.attempts := rfl
@[simp] theorem Controller.setRecord_curCmd (x : Controller) (i : Byte) (r : Record) :
    (x.setRecord i r).curCmd = x.curCmd := rfl
@[simp] theorem Controller.setRecord_expType (x : Controller) (i : Byte) (r : Record) :
    (x.setRecord i r).expType = x.expType := rfl
@[simp] theorem Controller.setRecord_txFrame (x : Controller) (i : Byte) (r : Record) :
    (x.setRecord i r).txFrame = x.txFrame := rfl
@[simp] theorem Controller.setRecord_settleCount (x : Controller) (i : Byte) (r : Record) :
    (x.setRecord i r).settleCount = x.settleCount := rfl
@[simp] theorem Controller.setRecord_timerArmed (x : Controller) (i : Byte) (r : Record) :
    (x.setRecord i r).timerArmed = x.timerArmed := rfl
@[simp] theorem Controller.setRecord_timerCount (x : Controller) (i : Byte) (r : Record) :
    (x.setRecord i r).timerCount = x.timerCount := rfl
@[simp] theorem Controller.setRecord_now (x : Controller) (i : Byte) (r : Record) :
    (x.setRecord i r).now = x.now := rfl
@[simp] theorem Controller.setRecord_readySync (x : Controller) (i : Byte) (r : Record) :
    (x.setRecord i r).readySync = x.readySync := rfl
@[simp] theorem Controller.setRecord_readyPrev (x : Controller) (i : Byte) (r : Record) :
    (x.setRecord i r).readyPrev = x.readyPrev := rfl
@[simp] theorem Controller.setRecord_pending (x : Controller) (i : Byte) (r : Record) :
    (x.setRecord i r).pending = x.pending := rfl
@[simp] theorem Controller.setRecord_selOut (x : Controller) (i : Byte) (r : Record) :
    (x.setRecord i r).selOut = x.selOut := rfl
@[simp] theorem Controller.setRecord_registry (x : Controller) (i : Byte) (r : Record) :
    (x.setRecord i r).registry = x.registry.set i.toNat r i.isLt := rfl
@[simp] theorem Controller.setRecord_nextId (x : Controller) (i : Byte) (r : Record) :
    (x.setRecord i r).nextId = x.nextId := rfl
@[simp] theorem Controller.setRecord_framer (x : Controller) (i : Byte) (r : Record) :
    (x.setRecord i r).framer = x.framer := rfl
@[simp] theorem Controller.setRecord_cmdValid (x : Controller) (i : Byte) (r : Record) :
    (x.setRecord i r).cmdValid = x.cmdValid := rfl
@[simp] theorem Controller.setRecord_cmdLatched (x : Controller) (i : Byte) (r : Record) :
    (x.setRecord i r).cmdLatched = x.cmdLatched := rfl
@[simp] theorem Controller.setRecord_cmd (x : Controller) (i : Byte) (r : Record) :
    (x.setRecord i r).cmd = x.cmd := rfl
@[simp] theorem Controller.setRecord_done (x : Controller) (i : Byte) (r : Record) :
    (x.setRecord i r).done = x.done := rfl
@[simp] theorem Controller.setRecord_regEvt (x : Controller) (i : Byte) (r : Record) :
    (x.setRecord i r).regEvt = x.regEvt := rfl
@[simp] theorem Controller.setRecord_evtOvf (x : Controller) (i : Byte) (r : Record) :
    (x.setRecord i r).evtOvf = x.evtOvf := rfl
@[simp] theorem Controller.setRecord_cmdDropped (x : Controller) (i : Byte) (r : Record) :
    (x.setRecord i r).cmdDropped = x.cmdDropped := rfl
@[simp] theorem Controller.setRecord_result (x : Controller) (i : Byte) (r : Record) :
    (x.setRecord i r).result = x.result := rfl
@[simp] theorem Controller.setRecord_respLen (x : Controller) (i : Byte) (r : Record) :
    (x.setRecord i r).respLen = x.respLen := rfl
@[simp] theorem Controller.setRecord_respInfo (x : Controller) (i : Byte) (r : Record) :
    (x.setRecord i r).respInfo = x.respInfo := rfl
@[simp] theorem Controller.setRecord_regEvent (x : Controller) (i : Byte) (r : Record) :
    (x.setRecord i r).regEvent = x.regEvent := rfl
@[simp] theorem Controller.setRecord_irqEn (x : Controller) (i : Byte) (r : Record) :
    (x.setRecord i r).irqEn = x.irqEn := rfl
@[simp] theorem Controller.setRecord_mem (x : Controller) (i : Byte) (r : Record) :
    (x.setRecord i r).mem = x.mem := rfl

/-! ### Controller.setStatus -/

@[simp] theorem Controller.setStatus_params (x : Controller) (i : Byte) (st : RecStatus) :
    (x.setStatus i st).params = x.params := rfl
@[simp] theorem Controller.setStatus_cst (x : Controller) (i : Byte) (st : RecStatus) :
    (x.setStatus i st).cst = x.cst := rfl
@[simp] theorem Controller.setStatus_curSlot (x : Controller) (i : Byte) (st : RecStatus) :
    (x.setStatus i st).curSlot = x.curSlot := rfl
@[simp] theorem Controller.setStatus_curId (x : Controller) (i : Byte) (st : RecStatus) :
    (x.setStatus i st).curId = x.curId := rfl
@[simp] theorem Controller.setStatus_attempts (x : Controller) (i : Byte) (st : RecStatus) :
    (x.setStatus i st).attempts = x.attempts := rfl
@[simp] theorem Controller.setStatus_curCmd (x : Controller) (i : Byte) (st : RecStatus) :
    (x.setStatus i st).curCmd = x.curCmd := rfl
@[simp] theorem Controller.setStatus_expType (x : Controller) (i : Byte) (st : RecStatus) :
    (x.setStatus i st).expType = x.expType := rfl
@[simp] theorem Controller.setStatus_txFrame (x : Controller) (i : Byte) (st : RecStatus) :
    (x.setStatus i st).txFrame = x.txFrame := rfl
@[simp] theorem Controller.setStatus_settleCount (x : Controller) (i : Byte) (st : RecStatus) :
    (x.setStatus i st).settleCount = x.settleCount := rfl
@[simp] theorem Controller.setStatus_timerArmed (x : Controller) (i : Byte) (st : RecStatus) :
    (x.setStatus i st).timerArmed = x.timerArmed := rfl
@[simp] theorem Controller.setStatus_timerCount (x : Controller) (i : Byte) (st : RecStatus) :
    (x.setStatus i st).timerCount = x.timerCount := rfl
@[simp] theorem Controller.setStatus_now (x : Controller) (i : Byte) (st : RecStatus) :
    (x.setStatus i st).now = x.now := rfl
@[simp] theorem Controller.setStatus_readySync (x : Controller) (i : Byte) (st : RecStatus) :
    (x.setStatus i st).readySync = x.readySync := rfl
@[simp] theorem Controller.setStatus_readyPrev (x : Controller) (i : Byte) (st : RecStatus) :
    (x.setStatus i st).readyPrev = x.readyPrev := rfl
@[simp] theorem Controller.setStatus_pending (x : Controller) (i : Byte) (st : RecStatus) :
    (x.setStatus i st).pending = x.pending := rfl
@[simp] theorem Controller.setStatus_selOut (x : Controller) (i : Byte) (st : RecStatus) :
    (x.setStatus i st).selOut = x.selOut := rfl
@[simp] theorem Controller.setStatus_registry (x : Controller) (i : Byte) (st : RecStatus) :
    (x.setStatus i st).registry = (x.setRecord i { x.record i with status := st }).registry := rfl
@[simp] theorem Controller.setStatus_nextId (x : Controller) (i : Byte) (st : RecStatus) :
    (x.setStatus i st).nextId = x.nextId := rfl
@[simp] theorem Controller.setStatus_framer (x : Controller) (i : Byte) (st : RecStatus) :
    (x.setStatus i st).framer = x.framer := rfl
@[simp] theorem Controller.setStatus_cmdValid (x : Controller) (i : Byte) (st : RecStatus) :
    (x.setStatus i st).cmdValid = x.cmdValid := rfl
@[simp] theorem Controller.setStatus_cmdLatched (x : Controller) (i : Byte) (st : RecStatus) :
    (x.setStatus i st).cmdLatched = x.cmdLatched := rfl
@[simp] theorem Controller.setStatus_cmd (x : Controller) (i : Byte) (st : RecStatus) :
    (x.setStatus i st).cmd = x.cmd := rfl
@[simp] theorem Controller.setStatus_done (x : Controller) (i : Byte) (st : RecStatus) :
    (x.setStatus i st).done = x.done := rfl
@[simp] theorem Controller.setStatus_regEvt (x : Controller) (i : Byte) (st : RecStatus) :
    (x.setStatus i st).regEvt = x.regEvt := rfl
@[simp] theorem Controller.setStatus_evtOvf (x : Controller) (i : Byte) (st : RecStatus) :
    (x.setStatus i st).evtOvf = x.evtOvf := rfl
@[simp] theorem Controller.setStatus_cmdDropped (x : Controller) (i : Byte) (st : RecStatus) :
    (x.setStatus i st).cmdDropped = x.cmdDropped := rfl
@[simp] theorem Controller.setStatus_result (x : Controller) (i : Byte) (st : RecStatus) :
    (x.setStatus i st).result = x.result := rfl
@[simp] theorem Controller.setStatus_respLen (x : Controller) (i : Byte) (st : RecStatus) :
    (x.setStatus i st).respLen = x.respLen := rfl
@[simp] theorem Controller.setStatus_respInfo (x : Controller) (i : Byte) (st : RecStatus) :
    (x.setStatus i st).respInfo = x.respInfo := rfl
@[simp] theorem Controller.setStatus_regEvent (x : Controller) (i : Byte) (st : RecStatus) :
    (x.setStatus i st).regEvent = x.regEvent := rfl
@[simp] theorem Controller.setStatus_irqEn (x : Controller) (i : Byte) (st : RecStatus) :
    (x.setStatus i st).irqEn = x.irqEn := rfl
@[simp] theorem Controller.setStatus_mem (x : Controller) (i : Byte) (st : RecStatus) :
    (x.setStatus i st).mem = x.mem := rfl

/-! ### Controller.touch -/

@[simp] theorem Controller.touch_params (x : Controller) (i : Byte) :
    (x.touch i).params = x.params := rfl
@[simp] theorem Controller.touch_cst (x : Controller) (i : Byte) :
    (x.touch i).cst = x.cst := rfl
@[simp] theorem Controller.touch_curSlot (x : Controller) (i : Byte) :
    (x.touch i).curSlot = x.curSlot := rfl
@[simp] theorem Controller.touch_curId (x : Controller) (i : Byte) :
    (x.touch i).curId = x.curId := rfl
@[simp] theorem Controller.touch_attempts (x : Controller) (i : Byte) :
    (x.touch i).attempts = x.attempts := rfl
@[simp] theorem Controller.touch_curCmd (x : Controller) (i : Byte) :
    (x.touch i).curCmd = x.curCmd := rfl
@[simp] theorem Controller.touch_expType (x : Controller) (i : Byte) :
    (x.touch i).expType = x.expType := rfl
@[simp] theorem Controller.touch_txFrame (x : Controller) (i : Byte) :
    (x.touch i).txFrame = x.txFrame := rfl
@[simp] theorem Controller.touch_settleCount (x : Controller) (i : Byte) :
    (x.touch i).settleCount = x.settleCount := rfl
@[simp] theorem Controller.touch_timerArmed (x : Controller) (i : Byte) :
    (x.touch i).timerArmed = x.timerArmed := rfl
@[simp] theorem Controller.touch_timerCount (x : Controller) (i : Byte) :
    (x.touch i).timerCount = x.timerCount := rfl
@[simp] theorem Controller.touch_now (x : Controller) (i : Byte) :
    (x.touch i).now = x.now := rfl
@[simp] theorem Controller.touch_readySync (x : Controller) (i : Byte) :
    (x.touch i).readySync = x.readySync := rfl
@[simp] theorem Controller.touch_readyPrev (x : Controller) (i : Byte) :
    (x.touch i).readyPrev = x.readyPrev := rfl
@[simp] theorem Controller.touch_pending (x : Controller) (i : Byte) :
    (x.touch i).pending = x.pending := rfl
@[simp] theorem Controller.touch_selOut (x : Controller) (i : Byte) :
    (x.touch i).selOut = x.selOut := rfl
@[simp] theorem Controller.touch_registry (x : Controller) (i : Byte) :
    (x.touch i).registry = (x.setRecord i { x.record i with last := x.now }).registry := rfl
@[simp] theorem Controller.touch_nextId (x : Controller) (i : Byte) :
    (x.touch i).nextId = x.nextId := rfl
@[simp] theorem Controller.touch_framer (x : Controller) (i : Byte) :
    (x.touch i).framer = x.framer := rfl
@[simp] theorem Controller.touch_cmdValid (x : Controller) (i : Byte) :
    (x.touch i).cmdValid = x.cmdValid := rfl
@[simp] theorem Controller.touch_cmdLatched (x : Controller) (i : Byte) :
    (x.touch i).cmdLatched = x.cmdLatched := rfl
@[simp] theorem Controller.touch_cmd (x : Controller) (i : Byte) :
    (x.touch i).cmd = x.cmd := rfl
@[simp] theorem Controller.touch_done (x : Controller) (i : Byte) :
    (x.touch i).done = x.done := rfl
@[simp] theorem Controller.touch_regEvt (x : Controller) (i : Byte) :
    (x.touch i).regEvt = x.regEvt := rfl
@[simp] theorem Controller.touch_evtOvf (x : Controller) (i : Byte) :
    (x.touch i).evtOvf = x.evtOvf := rfl
@[simp] theorem Controller.touch_cmdDropped (x : Controller) (i : Byte) :
    (x.touch i).cmdDropped = x.cmdDropped := rfl
@[simp] theorem Controller.touch_result (x : Controller) (i : Byte) :
    (x.touch i).result = x.result := rfl
@[simp] theorem Controller.touch_respLen (x : Controller) (i : Byte) :
    (x.touch i).respLen = x.respLen := rfl
@[simp] theorem Controller.touch_respInfo (x : Controller) (i : Byte) :
    (x.touch i).respInfo = x.respInfo := rfl
@[simp] theorem Controller.touch_regEvent (x : Controller) (i : Byte) :
    (x.touch i).regEvent = x.regEvent := rfl
@[simp] theorem Controller.touch_irqEn (x : Controller) (i : Byte) :
    (x.touch i).irqEn = x.irqEn := rfl
@[simp] theorem Controller.touch_mem (x : Controller) (i : Byte) :
    (x.touch i).mem = x.mem := rfl

/-! ### Controller.setSel -/

@[simp] theorem Controller.setSel_params (x : Controller) (k : Nat) (b : Bool) :
    (x.setSel k b).params = x.params := rfl
@[simp] theorem Controller.setSel_cst (x : Controller) (k : Nat) (b : Bool) :
    (x.setSel k b).cst = x.cst := rfl
@[simp] theorem Controller.setSel_curSlot (x : Controller) (k : Nat) (b : Bool) :
    (x.setSel k b).curSlot = x.curSlot := rfl
@[simp] theorem Controller.setSel_curId (x : Controller) (k : Nat) (b : Bool) :
    (x.setSel k b).curId = x.curId := rfl
@[simp] theorem Controller.setSel_attempts (x : Controller) (k : Nat) (b : Bool) :
    (x.setSel k b).attempts = x.attempts := rfl
@[simp] theorem Controller.setSel_curCmd (x : Controller) (k : Nat) (b : Bool) :
    (x.setSel k b).curCmd = x.curCmd := rfl
@[simp] theorem Controller.setSel_expType (x : Controller) (k : Nat) (b : Bool) :
    (x.setSel k b).expType = x.expType := rfl
@[simp] theorem Controller.setSel_txFrame (x : Controller) (k : Nat) (b : Bool) :
    (x.setSel k b).txFrame = x.txFrame := rfl
@[simp] theorem Controller.setSel_settleCount (x : Controller) (k : Nat) (b : Bool) :
    (x.setSel k b).settleCount = x.settleCount := rfl
@[simp] theorem Controller.setSel_timerArmed (x : Controller) (k : Nat) (b : Bool) :
    (x.setSel k b).timerArmed = x.timerArmed := rfl
@[simp] theorem Controller.setSel_timerCount (x : Controller) (k : Nat) (b : Bool) :
    (x.setSel k b).timerCount = x.timerCount := rfl
@[simp] theorem Controller.setSel_now (x : Controller) (k : Nat) (b : Bool) :
    (x.setSel k b).now = x.now := rfl
@[simp] theorem Controller.setSel_readySync (x : Controller) (k : Nat) (b : Bool) :
    (x.setSel k b).readySync = x.readySync := rfl
@[simp] theorem Controller.setSel_readyPrev (x : Controller) (k : Nat) (b : Bool) :
    (x.setSel k b).readyPrev = x.readyPrev := rfl
@[simp] theorem Controller.setSel_pending (x : Controller) (k : Nat) (b : Bool) :
    (x.setSel k b).pending = x.pending := rfl
@[simp] theorem Controller.setSel_selOut (x : Controller) (k : Nat) (b : Bool) :
    (x.setSel k b).selOut = setBit x.selOut k b := rfl
@[simp] theorem Controller.setSel_registry (x : Controller) (k : Nat) (b : Bool) :
    (x.setSel k b).registry = x.registry := rfl
@[simp] theorem Controller.setSel_nextId (x : Controller) (k : Nat) (b : Bool) :
    (x.setSel k b).nextId = x.nextId := rfl
@[simp] theorem Controller.setSel_framer (x : Controller) (k : Nat) (b : Bool) :
    (x.setSel k b).framer = x.framer := rfl
@[simp] theorem Controller.setSel_cmdValid (x : Controller) (k : Nat) (b : Bool) :
    (x.setSel k b).cmdValid = x.cmdValid := rfl
@[simp] theorem Controller.setSel_cmdLatched (x : Controller) (k : Nat) (b : Bool) :
    (x.setSel k b).cmdLatched = x.cmdLatched := rfl
@[simp] theorem Controller.setSel_cmd (x : Controller) (k : Nat) (b : Bool) :
    (x.setSel k b).cmd = x.cmd := rfl
@[simp] theorem Controller.setSel_done (x : Controller) (k : Nat) (b : Bool) :
    (x.setSel k b).done = x.done := rfl
@[simp] theorem Controller.setSel_regEvt (x : Controller) (k : Nat) (b : Bool) :
    (x.setSel k b).regEvt = x.regEvt := rfl
@[simp] theorem Controller.setSel_evtOvf (x : Controller) (k : Nat) (b : Bool) :
    (x.setSel k b).evtOvf = x.evtOvf := rfl
@[simp] theorem Controller.setSel_cmdDropped (x : Controller) (k : Nat) (b : Bool) :
    (x.setSel k b).cmdDropped = x.cmdDropped := rfl
@[simp] theorem Controller.setSel_result (x : Controller) (k : Nat) (b : Bool) :
    (x.setSel k b).result = x.result := rfl
@[simp] theorem Controller.setSel_respLen (x : Controller) (k : Nat) (b : Bool) :
    (x.setSel k b).respLen = x.respLen := rfl
@[simp] theorem Controller.setSel_respInfo (x : Controller) (k : Nat) (b : Bool) :
    (x.setSel k b).respInfo = x.respInfo := rfl
@[simp] theorem Controller.setSel_regEvent (x : Controller) (k : Nat) (b : Bool) :
    (x.setSel k b).regEvent = x.regEvent := rfl
@[simp] theorem Controller.setSel_irqEn (x : Controller) (k : Nat) (b : Bool) :
    (x.setSel k b).irqEn = x.irqEn := rfl
@[simp] theorem Controller.setSel_mem (x : Controller) (k : Nat) (b : Bool) :
    (x.setSel k b).mem = x.mem := rfl

/-! ### Controller.recordRegEvent -/

@[simp] theorem Controller.recordRegEvent_params (x : Controller) (kind : RegKind) (slot id : Byte) :
    (x.recordRegEvent kind slot id).params = x.params := rfl
@[simp] theorem Controller.recordRegEvent_cst (x : Controller) (kind : RegKind) (slot id : Byte) :
    (x.recordRegEvent kind slot id).cst = x.cst := rfl
@[simp] theorem Controller.recordRegEvent_curSlot (x : Controller) (kind : RegKind) (slot id : Byte) :
    (x.recordRegEvent kind slot id).curSlot = x.curSlot := rfl
@[simp] theorem Controller.recordRegEvent_curId (x : Controller) (kind : RegKind) (slot id : Byte) :
    (x.recordRegEvent kind slot id).curId = x.curId := rfl
@[simp] theorem Controller.recordRegEvent_attempts (x : Controller) (kind : RegKind) (slot id : Byte) :
    (x.recordRegEvent kind slot id).attempts = x.attempts := rfl
@[simp] theorem Controller.recordRegEvent_curCmd (x : Controller) (kind : RegKind) (slot id : Byte) :
    (x.recordRegEvent kind slot id).curCmd = x.curCmd := rfl
@[simp] theorem Controller.recordRegEvent_expType (x : Controller) (kind : RegKind) (slot id : Byte) :
    (x.recordRegEvent kind slot id).expType = x.expType := rfl
@[simp] theorem Controller.recordRegEvent_txFrame (x : Controller) (kind : RegKind) (slot id : Byte) :
    (x.recordRegEvent kind slot id).txFrame = x.txFrame := rfl
@[simp] theorem Controller.recordRegEvent_settleCount (x : Controller) (kind : RegKind) (slot id : Byte) :
    (x.recordRegEvent kind slot id).settleCount = x.settleCount := rfl
@[simp] theorem Controller.recordRegEvent_timerArmed (x : Controller) (kind : RegKind) (slot id : Byte) :
    (x.recordRegEvent kind slot id).timerArmed = x.timerArmed := rfl
@[simp] theorem Controller.recordRegEvent_timerCount (x : Controller) (kind : RegKind) (slot id : Byte) :
    (x.recordRegEvent kind slot id).timerCount = x.timerCount := rfl
@[simp] theorem Controller.recordRegEvent_now (x : Controller) (kind : RegKind) (slot id : Byte) :
    (x.recordRegEvent kind slot id).now = x.now := rfl
@[simp] theorem Controller.recordRegEvent_readySync (x : Controller) (kind : RegKind) (slot id : Byte) :
    (x.recordRegEvent kind slot id).readySync = x.readySync := rfl
@[simp] theorem Controller.recordRegEvent_readyPrev (x : Controller) (kind : RegKind) (slot id : Byte) :
    (x.recordRegEvent kind slot id).readyPrev = x.readyPrev := rfl
@[simp] theorem Controller.recordRegEvent_pending (x : Controller) (kind : RegKind) (slot id : Byte) :
    (x.recordRegEvent kind slot id).pending = x.pending := rfl
@[simp] theorem Controller.recordRegEvent_selOut (x : Controller) (kind : RegKind) (slot id : Byte) :
    (x.recordRegEvent kind slot id).selOut = x.selOut := rfl
@[simp] theorem Controller.recordRegEvent_registry (x : Controller) (kind : RegKind) (slot id : Byte) :
    (x.recordRegEvent kind slot id).registry = x.registry := rfl
@[simp] theorem Controller.recordRegEvent_nextId (x : Controller) (kind : RegKind) (slot id : Byte) :
    (x.recordRegEvent kind slot id).nextId = x.nextId := rfl
@[simp] theorem Controller.recordRegEvent_framer (x : Controller) (kind : RegKind) (slot id : Byte) :
    (x.recordRegEvent kind slot id).framer = x.framer := rfl
@[simp] theorem Controller.recordRegEvent_cmdValid (x : Controller) (kind : RegKind) (slot id : Byte) :
    (x.recordRegEvent kind slot id).cmdValid = x.cmdValid := rfl
@[simp] theorem Controller.recordRegEvent_cmdLatched (x : Controller) (kind : RegKind) (slot id : Byte) :
    (x.recordRegEvent kind slot id).cmdLatched = x.cmdLatched := rfl
@[simp] theorem Controller.recordRegEvent_cmd (x : Controller) (kind : RegKind) (slot id : Byte) :
    (x.recordRegEvent kind slot id).cmd = x.cmd := rfl
@[simp] theorem Controller.recordRegEvent_done (x : Controller) (kind : RegKind) (slot id : Byte) :
    (x.recordRegEvent kind slot id).done = x.done := rfl
@[simp] theorem Controller.recordRegEvent_regEvt (x : Controller) (kind : RegKind) (slot id : Byte) :
    (x.recordRegEvent kind slot id).regEvt = true := rfl
@[simp] theorem Controller.recordRegEvent_evtOvf (x : Controller) (kind : RegKind) (slot id : Byte) :
    (x.recordRegEvent kind slot id).evtOvf = (x.evtOvf || x.regEvt) := rfl
@[simp] theorem Controller.recordRegEvent_cmdDropped (x : Controller) (kind : RegKind) (slot id : Byte) :
    (x.recordRegEvent kind slot id).cmdDropped = x.cmdDropped := rfl
@[simp] theorem Controller.recordRegEvent_result (x : Controller) (kind : RegKind) (slot id : Byte) :
    (x.recordRegEvent kind slot id).result = x.result := rfl
@[simp] theorem Controller.recordRegEvent_respLen (x : Controller) (kind : RegKind) (slot id : Byte) :
    (x.recordRegEvent kind slot id).respLen = x.respLen := rfl
@[simp] theorem Controller.recordRegEvent_respInfo (x : Controller) (kind : RegKind) (slot id : Byte) :
    (x.recordRegEvent kind slot id).respInfo = x.respInfo := rfl
@[simp] theorem Controller.recordRegEvent_regEvent (x : Controller) (kind : RegKind) (slot id : Byte) :
    (x.recordRegEvent kind slot id).regEvent = { kind := kind, slot := slot, id := id } := rfl
@[simp] theorem Controller.recordRegEvent_irqEn (x : Controller) (kind : RegKind) (slot id : Byte) :
    (x.recordRegEvent kind slot id).irqEn = x.irqEn := rfl
@[simp] theorem Controller.recordRegEvent_mem (x : Controller) (kind : RegKind) (slot id : Byte) :
    (x.recordRegEvent kind slot id).mem = x.mem := rfl

/-! ### Controller.complete -/

@[simp] theorem Controller.complete_params (x : Controller) (r : ResultCode) (info : Byte) (data : List Byte) :
    (x.complete r info data).params = x.params := rfl
@[simp] theorem Controller.complete_cst (x : Controller) (r : ResultCode) (info : Byte) (data : List Byte) :
    (x.complete r info data).cst = .idle := rfl
@[simp] theorem Controller.complete_curSlot (x : Controller) (r : ResultCode) (info : Byte) (data : List Byte) :
    (x.complete r info data).curSlot = x.curSlot := rfl
@[simp] theorem Controller.complete_curId (x : Controller) (r : ResultCode) (info : Byte) (data : List Byte) :
    (x.complete r info data).curId = x.curId := rfl
@[simp] theorem Controller.complete_attempts (x : Controller) (r : ResultCode) (info : Byte) (data : List Byte) :
    (x.complete r info data).attempts = x.attempts := rfl
@[simp] theorem Controller.complete_curCmd (x : Controller) (r : ResultCode) (info : Byte) (data : List Byte) :
    (x.complete r info data).curCmd = x.curCmd := rfl
@[simp] theorem Controller.complete_expType (x : Controller) (r : ResultCode) (info : Byte) (data : List Byte) :
    (x.complete r info data).expType = 0x00 := rfl
@[simp] theorem Controller.complete_txFrame (x : Controller) (r : ResultCode) (info : Byte) (data : List Byte) :
    (x.complete r info data).txFrame = x.txFrame := rfl
@[simp] theorem Controller.complete_settleCount (x : Controller) (r : ResultCode) (info : Byte) (data : List Byte) :
    (x.complete r info data).settleCount = x.settleCount := rfl
@[simp] theorem Controller.complete_timerArmed (x : Controller) (r : ResultCode) (info : Byte) (data : List Byte) :
    (x.complete r info data).timerArmed = false := rfl
@[simp] theorem Controller.complete_timerCount (x : Controller) (r : ResultCode) (info : Byte) (data : List Byte) :
    (x.complete r info data).timerCount = 0 := rfl
@[simp] theorem Controller.complete_now (x : Controller) (r : ResultCode) (info : Byte) (data : List Byte) :
    (x.complete r info data).now = x.now := rfl
@[simp] theorem Controller.complete_readySync (x : Controller) (r : ResultCode) (info : Byte) (data : List Byte) :
    (x.complete r info data).readySync = x.readySync := rfl
@[simp] theorem Controller.complete_readyPrev (x : Controller) (r : ResultCode) (info : Byte) (data : List Byte) :
    (x.complete r info data).readyPrev = x.readyPrev := rfl
@[simp] theorem Controller.complete_pending (x : Controller) (r : ResultCode) (info : Byte) (data : List Byte) :
    (x.complete r info data).pending = x.pending := rfl
@[simp] theorem Controller.complete_selOut (x : Controller) (r : ResultCode) (info : Byte) (data : List Byte) :
    (x.complete r info data).selOut = x.selOut := rfl
@[simp] theorem Controller.complete_registry (x : Controller) (r : ResultCode) (info : Byte) (data : List Byte) :
    (x.complete r info data).registry = x.registry := rfl
@[simp] theorem Controller.complete_nextId (x : Controller) (r : ResultCode) (info : Byte) (data : List Byte) :
    (x.complete r info data).nextId = x.nextId := rfl
@[simp] theorem Controller.complete_framer (x : Controller) (r : ResultCode) (info : Byte) (data : List Byte) :
    (x.complete r info data).framer = x.framer := rfl
@[simp] theorem Controller.complete_cmdValid (x : Controller) (r : ResultCode) (info : Byte) (data : List Byte) :
    (x.complete r info data).cmdValid = x.cmdValid := rfl
@[simp] theorem Controller.complete_cmdLatched (x : Controller) (r : ResultCode) (info : Byte) (data : List Byte) :
    (x.complete r info data).cmdLatched = x.cmdLatched := rfl
@[simp] theorem Controller.complete_cmd (x : Controller) (r : ResultCode) (info : Byte) (data : List Byte) :
    (x.complete r info data).cmd = x.cmd := rfl
@[simp] theorem Controller.complete_done (x : Controller) (r : ResultCode) (info : Byte) (data : List Byte) :
    (x.complete r info data).done = true := rfl
@[simp] theorem Controller.complete_regEvt (x : Controller) (r : ResultCode) (info : Byte) (data : List Byte) :
    (x.complete r info data).regEvt = x.regEvt := rfl
@[simp] theorem Controller.complete_evtOvf (x : Controller) (r : ResultCode) (info : Byte) (data : List Byte) :
    (x.complete r info data).evtOvf = x.evtOvf := rfl
@[simp] theorem Controller.complete_cmdDropped (x : Controller) (r : ResultCode) (info : Byte) (data : List Byte) :
    (x.complete r info data).cmdDropped = x.cmdDropped := rfl
@[simp] theorem Controller.complete_result (x : Controller) (r : ResultCode) (info : Byte) (data : List Byte) :
    (x.complete r info data).result = r := rfl
@[simp] theorem Controller.complete_respLen (x : Controller) (r : ResultCode) (info : Byte) (data : List Byte) :
    (x.complete r info data).respLen = BitVec.ofNat 8 data.length := rfl
@[simp] theorem Controller.complete_respInfo (x : Controller) (r : ResultCode) (info : Byte) (data : List Byte) :
    (x.complete r info data).respInfo = info := rfl
@[simp] theorem Controller.complete_regEvent (x : Controller) (r : ResultCode) (info : Byte) (data : List Byte) :
    (x.complete r info data).regEvent = x.regEvent := rfl
@[simp] theorem Controller.complete_irqEn (x : Controller) (r : ResultCode) (info : Byte) (data : List Byte) :
    (x.complete r info data).irqEn = x.irqEn := rfl
@[simp] theorem Controller.complete_mem (x : Controller) (r : ResultCode) (info : Byte) (data : List Byte) :
    (x.complete r info data).mem = Memory.writeBytes x.mem 0x200 data := rfl

/-! ### Controller.acknowledge -/

@[simp] theorem Controller.acknowledge_params (x : Controller) (v : Word) :
    (x.acknowledge v).params = x.params := rfl
@[simp] theorem Controller.acknowledge_cst (x : Controller) (v : Word) :
    (x.acknowledge v).cst = x.cst := rfl
@[simp] theorem Controller.acknowledge_curSlot (x : Controller) (v : Word) :
    (x.acknowledge v).curSlot = x.curSlot := rfl
@[simp] theorem Controller.acknowledge_curId (x : Controller) (v : Word) :
    (x.acknowledge v).curId = x.curId := rfl
@[simp] theorem Controller.acknowledge_attempts (x : Controller) (v : Word) :
    (x.acknowledge v).attempts = x.attempts := rfl
@[simp] theorem Controller.acknowledge_curCmd (x : Controller) (v : Word) :
    (x.acknowledge v).curCmd = x.curCmd := rfl
@[simp] theorem Controller.acknowledge_expType (x : Controller) (v : Word) :
    (x.acknowledge v).expType = x.expType := rfl
@[simp] theorem Controller.acknowledge_txFrame (x : Controller) (v : Word) :
    (x.acknowledge v).txFrame = x.txFrame := rfl
@[simp] theorem Controller.acknowledge_settleCount (x : Controller) (v : Word) :
    (x.acknowledge v).settleCount = x.settleCount := rfl
@[simp] theorem Controller.acknowledge_timerArmed (x : Controller) (v : Word) :
    (x.acknowledge v).timerArmed = x.timerArmed := rfl
@[simp] theorem Controller.acknowledge_timerCount (x : Controller) (v : Word) :
    (x.acknowledge v).timerCount = x.timerCount := rfl
@[simp] theorem Controller.acknowledge_now (x : Controller) (v : Word) :
    (x.acknowledge v).now = x.now := rfl
@[simp] theorem Controller.acknowledge_readySync (x : Controller) (v : Word) :
    (x.acknowledge v).readySync = x.readySync := rfl
@[simp] theorem Controller.acknowledge_readyPrev (x : Controller) (v : Word) :
    (x.acknowledge v).readyPrev = x.readyPrev := rfl
@[simp] theorem Controller.acknowledge_pending (x : Controller) (v : Word) :
    (x.acknowledge v).pending = x.pending := rfl
@[simp] theorem Controller.acknowledge_selOut (x : Controller) (v : Word) :
    (x.acknowledge v).selOut = x.selOut := rfl
@[simp] theorem Controller.acknowledge_registry (x : Controller) (v : Word) :
    (x.acknowledge v).registry = x.registry := rfl
@[simp] theorem Controller.acknowledge_nextId (x : Controller) (v : Word) :
    (x.acknowledge v).nextId = x.nextId := rfl
@[simp] theorem Controller.acknowledge_framer (x : Controller) (v : Word) :
    (x.acknowledge v).framer = x.framer := rfl
@[simp] theorem Controller.acknowledge_cmdValid (x : Controller) (v : Word) :
    (x.acknowledge v).cmdValid = x.cmdValid := rfl
@[simp] theorem Controller.acknowledge_cmdLatched (x : Controller) (v : Word) :
    (x.acknowledge v).cmdLatched = x.cmdLatched := rfl
@[simp] theorem Controller.acknowledge_cmd (x : Controller) (v : Word) :
    (x.acknowledge v).cmd = x.cmd := rfl
@[simp] theorem Controller.acknowledge_done (x : Controller) (v : Word) :
    (x.acknowledge v).done = (x.done && !v.getLsbD 1) := rfl
@[simp] theorem Controller.acknowledge_regEvt (x : Controller) (v : Word) :
    (x.acknowledge v).regEvt = (x.regEvt && !v.getLsbD 2) := rfl
@[simp] theorem Controller.acknowledge_evtOvf (x : Controller) (v : Word) :
    (x.acknowledge v).evtOvf = (x.evtOvf && !v.getLsbD 3) := rfl
@[simp] theorem Controller.acknowledge_cmdDropped (x : Controller) (v : Word) :
    (x.acknowledge v).cmdDropped = (x.cmdDropped && !v.getLsbD 4) := rfl
@[simp] theorem Controller.acknowledge_result (x : Controller) (v : Word) :
    (x.acknowledge v).result = x.result := rfl
@[simp] theorem Controller.acknowledge_respLen (x : Controller) (v : Word) :
    (x.acknowledge v).respLen = x.respLen := rfl
@[simp] theorem Controller.acknowledge_respInfo (x : Controller) (v : Word) :
    (x.acknowledge v).respInfo = x.respInfo := rfl
@[simp] theorem Controller.acknowledge_regEvent (x : Controller) (v : Word) :
    (x.acknowledge v).regEvent = x.regEvent := rfl
@[simp] theorem Controller.acknowledge_irqEn (x : Controller) (v : Word) :
    (x.acknowledge v).irqEn = x.irqEn := rfl
@[simp] theorem Controller.acknowledge_mem (x : Controller) (v : Word) :
    (x.acknowledge v).mem = x.mem := rfl

/-! ### Controller.takeCommand -/

@[simp] theorem Controller.takeCommand_params (x : Controller) :
    (x.takeCommand).params = x.params := rfl
@[simp] theorem Controller.takeCommand_cst (x : Controller) :
    (x.takeCommand).cst = x.cst := rfl
@[simp] theorem Controller.takeCommand_curSlot (x : Controller) :
    (x.takeCommand).curSlot = x.curSlot := rfl
@[simp] theorem Controller.takeCommand_curId (x : Controller) :
    (x.takeCommand).curId = x.curId := rfl
@[simp] theorem Controller.takeCommand_attempts (x : Controller) :
    (x.takeCommand).attempts = x.attempts := rfl
@[simp] theorem Controller.takeCommand_curCmd (x : Controller) :
    (x.takeCommand).curCmd = x.cmdLatched := rfl
@[simp] theorem Controller.takeCommand_expType (x : Controller) :
    (x.takeCommand).expType = x.expType := rfl
@[simp] theorem Controller.takeCommand_txFrame (x : Controller) :
    (x.takeCommand).txFrame = x.txFrame := rfl
@[simp] theorem Controller.takeCommand_settleCount (x : Controller) :
    (x.takeCommand).settleCount = x.settleCount := rfl
@[simp] theorem Controller.takeCommand_timerArmed (x : Controller) :
    (x.takeCommand).timerArmed = x.timerArmed := rfl
@[simp] theorem Controller.takeCommand_timerCount (x : Controller) :
    (x.takeCommand).timerCount = x.timerCount := rfl
@[simp] theorem Controller.takeCommand_now (x : Controller) :
    (x.takeCommand).now = x.now := rfl
@[simp] theorem Controller.takeCommand_readySync (x : Controller) :
    (x.takeCommand).readySync = x.readySync := rfl
@[simp] theorem Controller.takeCommand_readyPrev (x : Controller) :
    (x.takeCommand).readyPrev = x.readyPrev := rfl
@[simp] theorem Controller.takeCommand_pending (x : Controller) :
    (x.takeCommand).pending = x.pending := rfl
@[simp] theorem Controller.takeCommand_selOut (x : Controller) :
    (x.takeCommand).selOut = x.selOut := rfl
@[simp] theorem Controller.takeCommand_registry (x : Controller) :
    (x.takeCommand).registry = x.registry := rfl
@[simp] theorem Controller.takeCommand_nextId (x : Controller) :
    (x.takeCommand).nextId = x.nextId := rfl
@[simp] theorem Controller.takeCommand_framer (x : Controller) :
    (x.takeCommand).framer = x.framer := rfl
@[simp] theorem Controller.takeCommand_cmdValid (x : Controller) :
    (x.takeCommand).cmdValid = false := rfl
@[simp] theorem Controller.takeCommand_cmdLatched (x : Controller) :
    (x.takeCommand).cmdLatched = x.cmdLatched := rfl
@[simp] theorem Controller.takeCommand_cmd (x : Controller) :
    (x.takeCommand).cmd = x.cmd := rfl
@[simp] theorem Controller.takeCommand_done (x : Controller) :
    (x.takeCommand).done = x.done := rfl
@[simp] theorem Controller.takeCommand_regEvt (x : Controller) :
    (x.takeCommand).regEvt = x.regEvt := rfl
@[simp] theorem Controller.takeCommand_evtOvf (x : Controller) :
    (x.takeCommand).evtOvf = x.evtOvf := rfl
@[simp] theorem Controller.takeCommand_cmdDropped (x : Controller) :
    (x.takeCommand).cmdDropped = x.cmdDropped := rfl
@[simp] theorem Controller.takeCommand_result (x : Controller) :
    (x.takeCommand).result = x.result := rfl
@[simp] theorem Controller.takeCommand_respLen (x : Controller) :
    (x.takeCommand).respLen = x.respLen := rfl
@[simp] theorem Controller.takeCommand_respInfo (x : Controller) :
    (x.takeCommand).respInfo = x.respInfo := rfl
@[simp] theorem Controller.takeCommand_regEvent (x : Controller) :
    (x.takeCommand).regEvent = x.regEvent := rfl
@[simp] theorem Controller.takeCommand_irqEn (x : Controller) :
    (x.takeCommand).irqEn = x.irqEn := rfl
@[simp] theorem Controller.takeCommand_mem (x : Controller) :
    (x.takeCommand).mem = x.mem := rfl

/-! ### Extension.raiseEvents -/

@[simp] theorem Extension.raiseEvents_params (x : Extension) (bits : BitVec 4) :
    (x.raiseEvents bits).params = x.params := rfl
@[simp] theorem Extension.raiseEvents_est (x : Extension) (bits : BitVec 4) :
    (x.raiseEvents bits).est = x.est := rfl
@[simp] theorem Extension.raiseEvents_extId (x : Extension) (bits : BitVec 4) :
    (x.raiseEvents bits).extId = x.extId := rfl
@[simp] theorem Extension.raiseEvents_readyOut (x : Extension) (bits : BitVec 4) :
    (x.raiseEvents bits).readyOut = x.readyOut := rfl
@[simp] theorem Extension.raiseEvents_selSync (x : Extension) (bits : BitVec 4) :
    (x.raiseEvents bits).selSync = x.selSync := rfl
@[simp] theorem Extension.raiseEvents_selPrev (x : Extension) (bits : BitVec 4) :
    (x.raiseEvents bits).selPrev = x.selPrev := rfl
@[simp] theorem Extension.raiseEvents_framer (x : Extension) (bits : BitVec 4) :
    (x.raiseEvents bits).framer = x.framer := rfl
@[simp] theorem Extension.raiseEvents_events (x : Extension) (bits : BitVec 4) :
    (x.raiseEvents bits).events = x.events ||| bits := rfl
@[simp] theorem Extension.raiseEvents_irqEn (x : Extension) (bits : BitVec 4) :
    (x.raiseEvents bits).irqEn = x.irqEn := rfl
@[simp] theorem Extension.raiseEvents_metricsLen (x : Extension) (bits : BitVec 4) :
    (x.raiseEvents bits).metricsLen = x.metricsLen := rfl
@[simp] theorem Extension.raiseEvents_optionsLen (x : Extension) (bits : BitVec 4) :
    (x.raiseEvents bits).optionsLen = x.optionsLen := rfl
@[simp] theorem Extension.raiseEvents_configLen (x : Extension) (bits : BitVec 4) :
    (x.raiseEvents bits).configLen = x.configLen := rfl
@[simp] theorem Extension.raiseEvents_mem (x : Extension) (bits : BitVec 4) :
    (x.raiseEvents bits).mem = x.mem := rfl

/-! ### Extension.acknowledge -/

@[simp] theorem Extension.acknowledge_params (x : Extension) (v : Word) :
    (x.acknowledge v).params = x.params := rfl
@[simp] theorem Extension.acknowledge_est (x : Extension) (v : Word) :
    (x.acknowledge v).est = x.est := rfl
@[simp] theorem Extension.acknowledge_extId (x : Extension) (v : Word) :
    (x.acknowledge v).extId = x.extId := rfl
@[simp] theorem Extension.acknowledge_readyOut (x : Extension) (v : Word) :
    (x.acknowledge v).readyOut = x.readyOut := rfl
@[simp] theorem Extension.acknowledge_selSync (x : Extension) (v : Word) :
    (x.acknowledge v).selSync = x.selSync := rfl
@[simp] theorem Extension.acknowledge_selPrev (x : Extension) (v : Word) :
    (x.acknowledge v).selPrev = x.selPrev := rfl
@[simp] theorem Extension.acknowledge_framer (x : Extension) (v : Word) :
    (x.acknowledge v).framer = x.framer := rfl
@[simp] theorem Extension.acknowledge_events (x : Extension) (v : Word) :
    (x.acknowledge v).events = x.events &&& ~~~(v.setWidth 4) := rfl
@[simp] theorem Extension.acknowledge_irqEn (x : Extension) (v : Word) :
    (x.acknowledge v).irqEn = x.irqEn := rfl
@[simp] theorem Extension.acknowledge_metricsLen (x : Extension) (v : Word) :
    (x.acknowledge v).metricsLen = x.metricsLen := rfl
@[simp] theorem Extension.acknowledge_optionsLen (x : Extension) (v : Word) :
    (x.acknowledge v).optionsLen = x.optionsLen := rfl
@[simp] theorem Extension.acknowledge_configLen (x : Extension) (v : Word) :
    (x.acknowledge v).configLen = x.configLen := rfl
@[simp] theorem Extension.acknowledge_mem (x : Extension) (v : Word) :
    (x.acknowledge v).mem = x.mem := rfl

/-! ### Extension.endSend -/

@[simp] theorem Extension.endSend_params (x : Extension) :
    (x.endSend).params = x.params := rfl
@[simp] theorem Extension.endSend_est (x : Extension) :
    (x.endSend).est = x.est := rfl
@[simp] theorem Extension.endSend_extId (x : Extension) :
    (x.endSend).extId = x.extId := rfl
@[simp] theorem Extension.endSend_readyOut (x : Extension) :
    (x.endSend).readyOut = x.readyOut := rfl
@[simp] theorem Extension.endSend_selSync (x : Extension) :
    (x.endSend).selSync = x.selSync := rfl
@[simp] theorem Extension.endSend_selPrev (x : Extension) :
    (x.endSend).selPrev = x.selPrev := rfl
@[simp] theorem Extension.endSend_framer (x : Extension) :
    (x.endSend).framer = x.framer.endSend := rfl
@[simp] theorem Extension.endSend_events (x : Extension) :
    (x.endSend).events = x.events := rfl
@[simp] theorem Extension.endSend_irqEn (x : Extension) :
    (x.endSend).irqEn = x.irqEn := rfl
@[simp] theorem Extension.endSend_metricsLen (x : Extension) :
    (x.endSend).metricsLen = x.metricsLen := rfl
@[simp] theorem Extension.endSend_optionsLen (x : Extension) :
    (x.endSend).optionsLen = x.optionsLen := rfl
@[simp] theorem Extension.endSend_configLen (x : Extension) :
    (x.endSend).configLen = x.configLen := rfl
@[simp] theorem Extension.endSend_mem (x : Extension) :
    (x.endSend).mem = x.mem := rfl

/-! ### State.mapCtrl -/

@[simp] theorem State.mapCtrl_ctrl (x : State) (f : Controller → Controller) :
    (x.mapCtrl f).ctrl = f x.ctrl := rfl
@[simp] theorem State.mapCtrl_slots (x : State) (f : Controller → Controller) :
    (x.mapCtrl f).slots = x.slots := rfl
@[simp] theorem State.mapCtrl_ctrlWire (x : State) (f : Controller → Controller) :
    (x.mapCtrl f).ctrlWire = x.ctrlWire := rfl
@[simp] theorem State.mapCtrl_active (x : State) (f : Controller → Controller) :
    (x.mapCtrl f).active = x.active := rfl
@[simp] theorem State.mapCtrl_inputs (x : State) (f : Controller → Controller) :
    (x.mapCtrl f).inputs = x.inputs := rfl
@[simp] theorem State.mapCtrl_instant (x : State) (f : Controller → Controller) :
    (x.mapCtrl f).instant = x.instant := rfl
@[simp] theorem State.mapCtrl_draws (x : State) (f : Controller → Controller) :
    (x.mapCtrl f).draws = x.draws := rfl
@[simp] theorem State.mapCtrl_reply (x : State) (f : Controller → Controller) :
    (x.mapCtrl f).reply = x.reply := rfl
@[simp] theorem State.mapCtrl_framerResult (x : State) (f : Controller → Controller) :
    (x.mapCtrl f).framerResult = x.framerResult := rfl
@[simp] theorem State.mapCtrl_onLine (x : State) (f : Controller → Controller) :
    (x.mapCtrl f).onLine = x.onLine := rfl

/-! ### State.mapSlot -/

@[simp] theorem State.mapSlot_ctrl (x : State) (k : Nat) (f : Slot → Slot) :
    (x.mapSlot k f).ctrl = x.ctrl := rfl
@[simp] theorem State.mapSlot_slots (x : State) (k : Nat) (f : Slot → Slot) :
    (x.mapSlot k f).slots = x.slots.modify k f := rfl
@[simp] theorem State.mapSlot_ctrlWire (x : State) (k : Nat) (f : Slot → Slot) :
    (x.mapSlot k f).ctrlWire = x.ctrlWire := rfl
@[simp] theorem State.mapSlot_active (x : State) (k : Nat) (f : Slot → Slot) :
    (x.mapSlot k f).active = x.active := rfl
@[simp] theorem State.mapSlot_inputs (x : State) (k : Nat) (f : Slot → Slot) :
    (x.mapSlot k f).inputs = x.inputs := rfl
@[simp] theorem State.mapSlot_instant (x : State) (k : Nat) (f : Slot → Slot) :
    (x.mapSlot k f).instant = x.instant := rfl
@[simp] theorem State.mapSlot_draws (x : State) (k : Nat) (f : Slot → Slot) :
    (x.mapSlot k f).draws = x.draws := rfl
@[simp] theorem State.mapSlot_reply (x : State) (k : Nat) (f : Slot → Slot) :
    (x.mapSlot k f).reply = x.reply := rfl
@[simp] theorem State.mapSlot_framerResult (x : State) (k : Nat) (f : Slot → Slot) :
    (x.mapSlot k f).framerResult = x.framerResult := rfl
@[simp] theorem State.mapSlot_onLine (x : State) (k : Nat) (f : Slot → Slot) :
    (x.mapSlot k f).onLine = x.onLine := rfl

/-! ### State.mapBoard -/

@[simp] theorem State.mapBoard_ctrl (x : State) (k : Nat) (f : Extension → Extension) :
    (x.mapBoard k f).ctrl = x.ctrl := rfl
@[simp] theorem State.mapBoard_slots (x : State) (k : Nat) (f : Extension → Extension) :
    (x.mapBoard k f).slots = x.slots.modify k (fun sl => { sl with board := sl.board.map f }) := rfl
@[simp] theorem State.mapBoard_ctrlWire (x : State) (k : Nat) (f : Extension → Extension) :
    (x.mapBoard k f).ctrlWire = x.ctrlWire := rfl
@[simp] theorem State.mapBoard_active (x : State) (k : Nat) (f : Extension → Extension) :
    (x.mapBoard k f).active = x.active := rfl
@[simp] theorem State.mapBoard_inputs (x : State) (k : Nat) (f : Extension → Extension) :
    (x.mapBoard k f).inputs = x.inputs := rfl
@[simp] theorem State.mapBoard_instant (x : State) (k : Nat) (f : Extension → Extension) :
    (x.mapBoard k f).instant = x.instant := rfl
@[simp] theorem State.mapBoard_draws (x : State) (k : Nat) (f : Extension → Extension) :
    (x.mapBoard k f).draws = x.draws := rfl
@[simp] theorem State.mapBoard_reply (x : State) (k : Nat) (f : Extension → Extension) :
    (x.mapBoard k f).reply = x.reply := rfl
@[simp] theorem State.mapBoard_framerResult (x : State) (k : Nat) (f : Extension → Extension) :
    (x.mapBoard k f).framerResult = x.framerResult := rfl
@[simp] theorem State.mapBoard_onLine (x : State) (k : Nat) (f : Extension → Extension) :
    (x.mapBoard k f).onLine = x.onLine := rfl

/-! ### State.mapWires -/

@[simp] theorem State.mapWires_ctrl (x : State) (f : Node → Params → Wire → Wire) :
    (x.mapWires f).ctrl = x.ctrl := rfl
@[simp] theorem State.mapWires_slots (x : State) (f : Node → Params → Wire → Wire) :
    (x.mapWires f).slots = mapSlotWires f 0 x.slots := rfl
@[simp] theorem State.mapWires_ctrlWire (x : State) (f : Node → Params → Wire → Wire) :
    (x.mapWires f).ctrlWire = f .controller x.ctrl.params x.ctrlWire := rfl
@[simp] theorem State.mapWires_active (x : State) (f : Node → Params → Wire → Wire) :
    (x.mapWires f).active = x.active := rfl
@[simp] theorem State.mapWires_inputs (x : State) (f : Node → Params → Wire → Wire) :
    (x.mapWires f).inputs = x.inputs := rfl
@[simp] theorem State.mapWires_instant (x : State) (f : Node → Params → Wire → Wire) :
    (x.mapWires f).instant = x.instant := rfl
@[simp] theorem State.mapWires_draws (x : State) (f : Node → Params → Wire → Wire) :
    (x.mapWires f).draws = x.draws := rfl
@[simp] theorem State.mapWires_reply (x : State) (f : Node → Params → Wire → Wire) :
    (x.mapWires f).reply = x.reply := rfl
@[simp] theorem State.mapWires_framerResult (x : State) (f : Node → Params → Wire → Wire) :
    (x.mapWires f).framerResult = x.framerResult := rfl
@[simp] theorem State.mapWires_onLine (x : State) (f : Node → Params → Wire → Wire) :
    (x.mapWires f).onLine = x.onLine := rfl

/-! ### State.leaveLine -/

@[simp] theorem State.leaveLine_ctrl (x : State) (n : Node) :
    (x.leaveLine n).ctrl = x.ctrl := rfl
@[simp] theorem State.leaveLine_slots (x : State) (n : Node) :
    (x.leaveLine n).slots = x.slots := rfl
@[simp] theorem State.leaveLine_ctrlWire (x : State) (n : Node) :
    (x.leaveLine n).ctrlWire = x.ctrlWire := rfl
@[simp] theorem State.leaveLine_active (x : State) (n : Node) :
    (x.leaveLine n).active = x.active := rfl
@[simp] theorem State.leaveLine_inputs (x : State) (n : Node) :
    (x.leaveLine n).inputs = x.inputs := rfl
@[simp] theorem State.leaveLine_instant (x : State) (n : Node) :
    (x.leaveLine n).instant = x.instant := rfl
@[simp] theorem State.leaveLine_draws (x : State) (n : Node) :
    (x.leaveLine n).draws = x.draws := rfl
@[simp] theorem State.leaveLine_reply (x : State) (n : Node) :
    (x.leaveLine n).reply = x.reply := rfl
@[simp] theorem State.leaveLine_framerResult (x : State) (n : Node) :
    (x.leaveLine n).framerResult = x.framerResult := rfl
@[simp] theorem State.leaveLine_onLine (x : State) (n : Node) :
    (x.leaveLine n).onLine = x.onLine.filter (· ≠ n) := rfl

/-! ### State.driveLines -/

@[simp] theorem State.driveLines_ctrl (x : State) (b : State) :
    (x.driveLines b).ctrl = x.ctrl := rfl
@[simp] theorem State.driveLines_slots (x : State) (b : State) :
    (x.driveLines b).slots = driveSlots b.ctrl.selOut x.ctrl.selOut 0 b.slots x.slots := rfl
@[simp] theorem State.driveLines_ctrlWire (x : State) (b : State) :
    (x.driveLines b).ctrlWire = x.ctrlWire := rfl
@[simp] theorem State.driveLines_active (x : State) (b : State) :
    (x.driveLines b).active = x.active := rfl
@[simp] theorem State.driveLines_inputs (x : State) (b : State) :
    (x.driveLines b).inputs = x.inputs := rfl
@[simp] theorem State.driveLines_instant (x : State) (b : State) :
    (x.driveLines b).instant = x.instant := rfl
@[simp] theorem State.driveLines_draws (x : State) (b : State) :
    (x.driveLines b).draws = x.draws := rfl
@[simp] theorem State.driveLines_reply (x : State) (b : State) :
    (x.driveLines b).reply = x.reply := rfl
@[simp] theorem State.driveLines_framerResult (x : State) (b : State) :
    (x.driveLines b).framerResult = x.framerResult := rfl
@[simp] theorem State.driveLines_onLine (x : State) (b : State) :
    (x.driveLines b).onLine = x.onLine := rfl

/-! ### State.framerCall -/

@[simp] theorem State.framerCall_ctrl (x : State) (f : Params → FramerResult) :
    (x.framerCall f).ctrl = x.ctrl := rfl
@[simp] theorem State.framerCall_slots (x : State) (f : Params → FramerResult) :
    (x.framerCall f).slots = x.slots := rfl
@[simp] theorem State.framerCall_ctrlWire (x : State) (f : Params → FramerResult) :
    (x.framerCall f).ctrlWire = x.ctrlWire := rfl
@[simp] theorem State.framerCall_active (x : State) (f : Params → FramerResult) :
    (x.framerCall f).active = x.active := rfl
@[simp] theorem State.framerCall_inputs (x : State) (f : Params → FramerResult) :
    (x.framerCall f).inputs = x.inputs := rfl
@[simp] theorem State.framerCall_instant (x : State) (f : Params → FramerResult) :
    (x.framerCall f).instant = x.instant := rfl
@[simp] theorem State.framerCall_draws (x : State) (f : Params → FramerResult) :
    (x.framerCall f).draws = x.draws := rfl
@[simp] theorem State.framerCall_reply (x : State) (f : Params → FramerResult) :
    (x.framerCall f).reply = x.reply := rfl
@[simp] theorem State.framerCall_framerResult (x : State) (f : Params → FramerResult) :
    (x.framerCall f).framerResult = (x.params x.active).map f := rfl
@[simp] theorem State.framerCall_onLine (x : State) (f : Params → FramerResult) :
    (x.framerCall f).onLine = x.onLine := rfl

/-! ### State.setWire -/

@[simp] theorem State.setWire_ctrl (x : State) (n : Node) (w : Wire) :
    (x.setWire n w).ctrl = x.ctrl := by cases n <;> rfl
@[simp] theorem State.setWire_active (x : State) (n : Node) (w : Wire) :
    (x.setWire n w).active = x.active := by cases n <;> rfl
@[simp] theorem State.setWire_inputs (x : State) (n : Node) (w : Wire) :
    (x.setWire n w).inputs = x.inputs := by cases n <;> rfl
@[simp] theorem State.setWire_instant (x : State) (n : Node) (w : Wire) :
    (x.setWire n w).instant = x.instant := by cases n <;> rfl
@[simp] theorem State.setWire_draws (x : State) (n : Node) (w : Wire) :
    (x.setWire n w).draws = x.draws := by cases n <;> rfl
@[simp] theorem State.setWire_reply (x : State) (n : Node) (w : Wire) :
    (x.setWire n w).reply = x.reply := by cases n <;> rfl
@[simp] theorem State.setWire_framerResult (x : State) (n : Node) (w : Wire) :
    (x.setWire n w).framerResult = x.framerResult := by cases n <;> rfl
@[simp] theorem State.setWire_onLine (x : State) (n : Node) (w : Wire) :
    (x.setWire n w).onLine = x.onLine := by cases n <;> rfl

end Sys2Proof.Machine
end

