-- ==== Sys2Proof/Laws/Bus.lean ====
section
/-! SUPPORT. The laws of the bus: changing one board, putting a frame on the bus, driving the lines. -/

namespace Sys2Proof.Machine

/-! ### One board -/

theorem State.board_eq_some {s : State} {k : Nat} {e : Extension} (h : s.board k = some e) :
    ∃ sl, s.slots[k]? = some sl ∧ sl.board = some e := by
  simpa [State.board, Option.bind_eq_some_iff] using h

theorem State.mapSlot_congr {s : State} {k : Nat} {f g : Slot → Slot} (h : ∀ sl, s.slots[k]? = some sl → f sl = g sl) :
    s.mapSlot k f = s.mapSlot k g := by
  have : s.slots.modify k f = s.slots.modify k g := by
    refine List.ext_getElem? fun j => ?_
    rw [List.getElem?_modify, List.getElem?_modify]
    by_cases hj : k = j
    · subst hj
      cases hs : s.slots[k]? with
      | none => rfl
      | some sl => simp [h sl hs]
    · simp [hj]
  simp [State.mapSlot, this]

/-- A change of a board is the board it results in. -/
theorem State.mapBoard_eq_setBoard {s : State} {k : Nat} {e : Extension} (f : Extension → Extension)
    (h : s.board k = some e) : s.mapBoard k f = s.setBoard k (f e) := by
  obtain ⟨sl, hs, hb⟩ := State.board_eq_some h
  refine State.mapSlot_congr fun sl' hs' => ?_
  rw [hs] at hs'
  cases hs'
  simp [hb]

/-- Putting the board back changes nothing. -/
theorem State.setBoard_self {s : State} {k : Nat} {e : Extension} (h : s.board k = some e) : s.setBoard k e = s := by
  obtain ⟨sl, hs, hb⟩ := State.board_eq_some h
  have : s.slots.modify k (fun sl => { sl with board := sl.board.map (fun _ => e) }) = s.slots := by
    refine List.ext_getElem? fun j => ?_
    rw [List.getElem?_modify]
    by_cases hj : k = j
    · subst hj
      rw [hs]
      cases sl with | mk b r se w =>
      simp only at hb
      subst hb
      simp
    · simp [hj]
  simp only [State.setBoard, State.mapBoard, State.mapSlot, this]

theorem State.mapSlot_slots_getElem? (s : State) (k j : Nat) (f : Slot → Slot) :
    (s.mapSlot k f).slots[j]? = if k = j then s.slots[j]?.map f else s.slots[j]? := by
  rw [State.mapSlot, List.getElem?_modify]
  split
  · rfl
  · simp

@[simp] theorem State.mapSlot_slots_length (s : State) (k : Nat) (f : Slot → Slot) :
    (s.mapSlot k f).slots.length = s.slots.length := by
  simp [State.mapSlot]

theorem State.board_mapBoard_same (s : State) (k : Nat) (f : Extension → Extension) :
    (s.mapBoard k f).board k = (s.board k).map f := by
  rw [State.board, State.mapBoard, State.mapSlot_slots_getElem?, if_pos rfl, State.board]
  cases s.slots[k]? with
  | none => rfl
  | some sl => cases sl with | mk b r se w => cases b <;> rfl

theorem State.board_mapBoard_other (s : State) {k j : Nat} (f : Extension → Extension) (h : j ≠ k) :
    (s.mapBoard k f).board j = s.board j := by
  rw [State.board, State.mapBoard, State.mapSlot_slots_getElem?, if_neg (Ne.symm h), State.board]

theorem State.board_setBoard_same {s : State} {k : Nat} {e : Extension} (e' : Extension) (h : s.board k = some e) :
    (s.setBoard k e').board k = some e' := by
  rw [State.setBoard, State.board_mapBoard_same, h]
  rfl

theorem State.board_setBoard_other (s : State) {k j : Nat} (e' : Extension) (h : j ≠ k) :
    (s.setBoard k e').board j = s.board j :=
  State.board_mapBoard_other s _ h

/-! ### The wires -/

@[simp] theorem Slot.mapWire_board (f : Params → Wire → Wire) (sl : Slot) : (sl.mapWire f).board = sl.board := by
  unfold Slot.mapWire
  split <;> simp_all

/-- The wire of a board after it was changed. -/
theorem Slot.mapWire_of_board (f : Params → Wire → Wire) {sl : Slot} {e : Extension} (h : sl.board = some e) :
    sl.mapWire f = { sl with wire := f e.params sl.wire } := by
  simp [Slot.mapWire, h]

@[simp] theorem mapSlotWires_length (f : Node → Params → Wire → Wire) (k : Nat) (sls : List Slot) :
    (mapSlotWires f k sls).length = sls.length := by
  induction sls generalizing k with
  | nil => rfl
  | cons sl sls ih => simp [mapSlotWires, ih]

/-- What the slot `j` is after the wires were changed. -/
theorem mapSlotWires_getElem? (f : Node → Params → Wire → Wire) (k j : Nat) (sls : List Slot) :
    (mapSlotWires f k sls)[j]? = sls[j]?.map (Slot.mapWire (f (.slot (k + j)))) := by
  induction sls generalizing k j with
  | nil => simp [mapSlotWires]
  | cons sl sls ih =>
    cases j with
    | zero => simp [mapSlotWires]
    | succ j => simp [mapSlotWires, ih, Nat.add_assoc, Nat.add_comm 1 j]

@[simp] theorem State.board_mapWires (s : State) (f : Node → Params → Wire → Wire) (k : Nat) :
    (s.mapWires f).board k = s.board k := by
  simp only [State.board, State.mapWires_slots, mapSlotWires_getElem?]
  cases s.slots[k]? <;> simp

@[simp] theorem State.framer_mapWires (s : State) (f : Node → Params → Wire → Wire) (n : Node) :
    (s.mapWires f).framer n = s.framer n := by
  cases n <;> simp [State.framer]

@[simp] theorem State.params_mapWires (s : State) (f : Node → Params → Wire → Wire) (n : Node) :
    (s.mapWires f).params n = s.params n := by
  cases n <;> simp [State.params]

/-- The wire of an attached node after the wires were changed. -/
theorem State.wire_mapWires {s : State} {n : Node} {p : Params} (f : Node → Params → Wire → Wire)
    (h : s.params n = some p) : (s.mapWires f).wire n = f n p (s.wire n) := by
  cases n with
  | controller =>
    cases h
    rfl
  | slot k =>
    simp only [State.params, State.board] at h
    simp only [State.wire, State.mapWires_slots, mapSlotWires_getElem?]
    cases hs : s.slots[k]? with
    | none => simp [hs] at h
    | some sl =>
      cases hb : sl.board with
      | none => simp [hs, hb] at h
      | some e =>
        simp only [hs, Option.bind_some, hb, Option.map_some, Option.some.injEq] at h
        simp [Slot.mapWire_of_board _ hb, h]

/-- Leaving the line changes no wire and no core. -/
@[simp] theorem State.wire_leaveLine (s : State) (n m : Node) : (s.leaveLine n).wire m = s.wire m := by
  cases m <;> rfl

@[simp] theorem State.board_leaveLine (s : State) (n : Node) (k : Nat) : (s.leaveLine n).board k = s.board k := rfl

@[simp] theorem State.framer_leaveLine (s : State) (n m : Node) : (s.leaveLine n).framer m = s.framer m := by
  cases m <;> rfl

@[simp] theorem State.params_leaveLine (s : State) (n m : Node) : (s.leaveLine n).params m = s.params m := by
  cases m <;> rfl

/-- The wire of an attached node after the frame `f` of `n` was put on the bus. -/
theorem State.wire_hear {s : State} {m : Node} {p : Params} (n : Node) (f : List Byte) (h : s.params m = some p) :
    (s.hear n f).wire m =
      if m = n then Wire.garble (s.others n) (s.wire m) else Wire.hear n f (s.others n) (s.wire m) := by
  rw [← State.wire_mapWires (fun m _ w => if m = n then Wire.garble (s.others n) w else Wire.hear n f (s.others n) w) h]
  cases m <;> rfl

/-- With no other transmission on the line nothing is garbled. -/
@[simp] theorem Wire.garble_nil (w : Wire) : Wire.garble [] w = w := by
  simp [Wire.garble]

/-- The wire of an attached node after the Transport of `n` was done with its frame. -/
theorem State.wire_sendEnds {s : State} {m : Node} {p : Params} (n : Node) (h : s.params m = some p) :
    (s.sendEnds n).wire m = Wire.endOf n (s.wire m) := by
  rw [State.sendEnds, State.wire_leaveLine, State.wire_mapWires _ h]

/-- The wire of an attached node after the transmission of `n` was given up. -/
theorem State.wire_giveUp {s : State} {m : Node} {p : Params} (n : Node) (h : s.params m = some p) :
    (s.giveUp n).wire m =
      Wire.giveUp n (Config.abandonedLength s.draws (nodeIndex m)) p.tGap.toNat (s.wire m) := by
  rw [State.giveUp, State.wire_leaveLine, State.wire_mapWires _ h]

/-- What the bus is after a byte of a frame was received. -/
theorem State.takeByte_eq_received {s : State} {n : Node} {t : Transmission} {b : Byte} {bs : List Byte} {w w' : Wire}
    (h : s.wire n = t :: w) (hb : t.bytes = b :: bs) : s.takeByte n w' = s.received n t bs w' := by
  cases bs with
  | nil =>
    by_cases he : t.ended = false
    · simp only [State.takeByte, h, Wire.finishing, he, hb, List.length_singleton, and_self, if_true, State.received]
      cases n <;> rfl
    · simp only [State.takeByte, h, Wire.finishing, he, State.received]
      cases n <;> rfl
  | cons b' bs =>
    simp only [State.takeByte, h, Wire.finishing, hb, State.received]
    cases n <;> simp [State.setWire, State.mapSlot]

@[simp] theorem State.board_setWire (s : State) (n : Node) (w : Wire) (k : Nat) :
    (s.setWire n w).board k = s.board k := by
  cases n with
  | controller => rfl
  | slot j =>
    simp only [State.setWire, State.board, State.mapSlot_slots_getElem?]
    split
    · cases s.slots[k]? <;> rfl
    · rfl

@[simp] theorem State.framer_setWire (s : State) (n m : Node) (w : Wire) :
    (s.setWire n w).framer m = s.framer m := by
  cases m <;> simp [State.framer]

@[simp] theorem State.params_setWire (s : State) (n m : Node) (w : Wire) :
    (s.setWire n w).params m = s.params m := by
  cases m <;> simp [State.params]

/-- The wire of another node after one was written. -/
theorem State.wire_setWire_other (s : State) {n m : Node} (w : Wire) (h : m ≠ n) :
    (s.setWire n w).wire m = s.wire m := by
  cases n with
  | controller => cases m with
    | controller => exact absurd rfl h
    | slot j => rfl
  | slot k => cases m with
    | controller => rfl
    | slot j =>
      simp only [State.setWire, State.wire, State.mapSlot_slots_getElem?]
      rw [if_neg fun hk => h (congrArg Node.slot hk.symm)]

/-! ### What the channel can do at one receiver (20_memory.md rule R118) -/

/-- A byte is delivered as it was sent exactly from a frame that is not overlapped and has one left. -/
theorem Wire.deliver_eq_some {w w' : Wire} {b : Byte} : Wire.deliver w = some (b, w') ↔
    ∃ t rest bs, w = t :: rest ∧ t.bytes = b :: bs ∧ t.carriage ≠ .garbled ∧
      w' = Transmission.before { t with bytes := bs } rest := by
  cases w with
  | nil => simp [Wire.deliver]
  | cons t rest =>
    cases hb : t.bytes with
    | nil => simp [Wire.deliver, hb]
    | cons b0 bs =>
      by_cases hg : t.carriage = .garbled
      · simp [Wire.deliver, hb, hg]
      · simp only [Wire.deliver, hb, if_neg hg, Option.some.injEq, Prod.mk.injEq, List.cons.injEq]
        constructor
        · rintro ⟨rfl, rfl⟩
          exact ⟨t, rest, bs, ⟨rfl, rfl⟩, hb, hg, rfl⟩
        · rintro ⟨t', rest', bs', ⟨rfl, rfl⟩, h, -, rfl⟩
          rw [hb] at h
          cases h
          exact ⟨rfl, rfl⟩

/-- A frame that is given up never gets to a receiver whole: of what is left a receiver gets less. -/
theorem Transmission.giveUp_bytes_length (keep quiet : Nat) (t : Transmission) (h : t.bytes ≠ [])
    (hc : t.carriage = .intact ∨ t.carriage = .damaged) :
    (t.giveUp keep quiet).bytes.length < t.bytes.length ∧ (t.giveUp keep quiet).carriage = .cut quiet := by
  have hl : 0 < t.bytes.length := List.length_pos_of_ne_nil h
  have := Nat.mod_lt keep hl
  rw [Transmission.giveUp, if_pos ⟨hc, h⟩]
  exact ⟨by simp; omega, rfl⟩

/-- The silence of a frame that was cut lasts `quiet` ticks. -/
theorem Wire.silentTick_cut (t : Transmission) (rest : Wire) (quiet : Nat) (hc : t.carriage = .cut quiet)
    (hb : t.bytes = []) :
    Wire.silentTick (t :: rest) = if quiet ≤ 1 then rest else { t with carriage := .cut (quiet - 1) } :: rest := by
  simp [Wire.silentTick, hc, hb]

/-! ### The lines -/

@[simp] theorem driveSlots_length (o w : BitVec 32) (k : Nat) (olds sls : List Slot) :
    (driveSlots o w k olds sls).length = sls.length := by
  induction sls generalizing k olds with
  | nil => cases olds <;> rfl
  | cons sl sls ih => cases olds <;> simp [driveSlots, ih]

/-- What the slot `j` is after the lines were driven. -/
theorem driveSlots_getElem? (o w : BitVec 32) (k j : Nat) (olds sls : List Slot) {old sl : Slot}
    (ho : olds[j]? = some old) (hs : sls[j]? = some sl) :
    (driveSlots o w k olds sls)[j]? = some { sl with
      sel := if w.getLsbD (k + j) = o.getLsbD (k + j) then sl.sel else sl.sel.drive (w.getLsbD (k + j))
      ready := if readyDriven sl.board = readyDriven old.board then sl.ready
        else sl.ready.drive (readyDriven sl.board) } := by
  induction sls generalizing k j olds with
  | nil => simp at hs
  | cons sl' sls ih =>
    cases olds with
    | nil => simp at ho
    | cons old' olds =>
      cases j with
      | zero =>
        simp only [List.getElem?_cons_zero, Option.some.injEq] at ho hs
        subst ho; subst hs
        rfl
      | succ j =>
        simp only [List.getElem?_cons_succ] at ho hs
        simp only [driveSlots, List.getElem?_cons_succ]
        rw [ih (k + 1) j olds ho hs, show k + 1 + j = k + (j + 1) by omega]

/-- A step that changed no driven level drives no line. -/
theorem driveSlots_eq_self (o : BitVec 32) (k : Nat) (olds sls : List Slot) (hl : olds.length = sls.length)
    (h : ∀ (j : Nat) (old sl : Slot), olds[j]? = some old → sls[j]? = some sl → readyDriven sl.board = readyDriven old.board) :
    driveSlots o o k olds sls = sls := by
  induction sls generalizing k olds with
  | nil => cases olds <;> rfl
  | cons sl sls ih =>
    cases olds with
    | nil => simp at hl
    | cons old olds =>
      have h0 := h 0 old sl rfl rfl
      simp only [driveSlots, if_true, if_pos h0]
      rw [ih (k + 1) olds (by simpa using hl) fun j old sl h1 h2 => h (j + 1) old sl (by simpa) (by simpa)]

end Sys2Proof.Machine
end

