-- ==== Sys2Proof/Laws/Decode.lean ====
section
/-! SUPPORT. The laws of the encodings: the CRC register, the layout of a frame, and the bodies `parse` accepts. -/

namespace Sys2Proof

/-! ### CRC-8 -/

theorem crcBytes_cons (poly c b : Byte) (bs : List Byte) :
    crcBytes poly c (b :: bs) = crcBytes poly (crcByte poly c b) bs := by
  have h : BitVec.ofNat 8 (crcByte poly c b).toNat = crcByte poly c b := by simp
  rw [crcBytes]
  cases hn : (crcByte poly c b).toNat with
  | zero =>
    rw [hn] at h
    simp [← h]
  | succ n =>
    rw [hn] at h
    simp [h]

@[simp] theorem crcBytes_nil (poly c : Byte) : crcBytes poly c [] = c := rfl

theorem crcBytes_eq_foldl (poly c : Byte) (bs : List Byte) :
    crcBytes poly c bs = bs.foldl (crcByte poly) c := by
  induction bs generalizing c with
  | nil => rfl
  | cons b bs ih => rw [crcBytes_cons, ih, List.foldl_cons]

theorem crcBytes_append (poly c : Byte) (as bs : List Byte) :
    crcBytes poly c (as ++ bs) = crcBytes poly (crcBytes poly c as) bs := by
  simp [crcBytes_eq_foldl]

/-! ### Frames -/

theorem frameBytes_eq (p : Params) (rid t : Byte) (body : List Byte) :
    frameBytes p rid t body = p.protocolVersion :: rid :: t :: (body ++ [crc8 p (p.protocolVersion :: rid :: t :: body)]) :=
  rfl

theorem frameBytes_length (p : Params) (rid t : Byte) (body : List Byte) :
    (frameBytes p rid t body).length = body.length + 4 := by
  simp [frameBytes]

theorem PacketType.ofCode_code (t : PacketType) : PacketType.ofCode t.code = some t := by
  cases t <;> rfl

theorem PacketType.code_ofCode {c : Byte} {t : PacketType} (h : PacketType.ofCode c = some t) : t.code = c := by
  revert h
  cases t <;> revert c <;> decide

/-- The type codes are 0x01..0x0B (30_encoding.md rules R132, R133). -/
theorem PacketType.ofCode_eq_none (c : Byte) : PacketType.ofCode c = none ↔ ¬(1 ≤ c.toNat ∧ c.toNat ≤ 11) := by
  revert c; decide

theorem frame_fields {p : Params} {rid t : Byte} {body : List Byte} (h : body.length = payloadMax) :
    (frameBytes p rid t body).length = frameLen ∧ (frameBytes p rid t body).getD 0 0 = p.protocolVersion ∧
    (frameBytes p rid t body).getD 1 0 = rid ∧ (frameBytes p rid t body).getD 2 0 = t ∧
    ((frameBytes p rid t body).drop 3).take payloadMax = body ∧
    (frameBytes p rid t body).take 255 = p.protocolVersion :: rid :: t :: body ∧
    (frameBytes p rid t body).getD 255 0 = crc8 p (p.protocolVersion :: rid :: t :: body) := by
  have h' : body.length = 252 := h
  refine ⟨by simp [frameBytes_length, h', frameLen], rfl, rfl, rfl, ?_, ?_, ?_⟩
  · simp [frameBytes_eq, payloadMax, ← h']
  · simp [frameBytes_eq, ← h']
  · simp [frameBytes_eq, h']

/-- A frame decodes to its type, or fails with UnknownType. -/
theorem decodePacket_frameBytes {p : Params} {rid t : Byte} {body : List Byte} (h : body.length = payloadMax) :
    decodePacket p (frameBytes p rid t body) =
      match PacketType.ofCode t with
      | none => .error (.unknownType rid t)
      | some t => .ok { version := p.protocolVersion, rid := rid, ptype := t, body := body } := by
  obtain ⟨h1, h2, h3, h4, h5, h6, h7⟩ := frame_fields (p := p) (rid := rid) (t := t) h
  cases ht : PacketType.ofCode t <;>
    simp only [decodePacket, h1, h2, h3, h4, h5, h6, h7, ht, Nat.lt_irrefl, ne_eq, not_true_eq_false, if_false]

/-- What an accepted packet was: 256 bytes that are the frame of its fields. -/
theorem decodePacket_ok {p : Params} {s : List Byte} {k : Packet} (hs : s.length ≤ frameLen)
    (h : decodePacket p s = .ok k) :
    k.version = p.protocolVersion ∧ k.body.length = payloadMax ∧ s = frameBytes p k.rid k.ptype.code k.body := by
  unfold decodePacket at h
  split at h
  · cases h
  split at h
  · cases h
  split at h
  · cases h
  split at h
  · cases h
  rename_i hl hv hc _ t ht
  cases h
  have hl' : s.length = 256 := by simp only [frameLen] at *; omega
  obtain ⟨a, b, c, r, rfl⟩ : ∃ a b c r, s = a :: b :: c :: r := by
    match s, hl' with
    | a :: b :: c :: r, _ => exact ⟨a, b, c, r, rfl⟩
  have hr : r.length = 253 := by simpa using hl'
  have hv' : a = p.protocolVersion := by simpa using hv
  have ht' : t.code = c := by simpa using PacketType.code_ofCode ht
  have hsplit : r = r.take 252 ++ [r.getD 252 0] := by
    refine List.ext_getElem (by simp [hr]) fun i h1 h2 => ?_
    by_cases hi : i < 252
    · rw [List.getElem_append_left (by simp [hr]; omega)]
      simp
    · have : i = 252 := by omega
      subst this
      rw [List.getElem_append_right (by simp [hr])]
      simp [hr]
  have hcrc : crc8 p (a :: b :: c :: r.take 252) = r.getD 252 0 := by simpa using hc
  refine ⟨by simpa using hv', by simp [payloadMax, hr], ?_⟩
  simp only [frameBytes_eq, List.getD_cons_zero, List.getD_cons_succ, List.drop_succ_cons, List.drop_zero, ht',
    payloadMax]
  rw [← hv', hcrc, ← hsplit]

/-! ### Bodies -/

theorem paddedFrom_append (l : List Byte) (n : Nat) : paddedFrom l.length (l ++ List.replicate n 0x00) = true := by
  simp [paddedFrom]

theorem paddedFrom_zero (n : Nat) : paddedFrom 0 (List.replicate n 0x00) = true := paddedFrom_append [] n

theorem paddedFrom_one (a : Byte) (n : Nat) : paddedFrom 1 (a :: List.replicate n 0x00) = true :=
  paddedFrom_append [a] n

theorem paddedFrom_two (a b : Byte) (n : Nat) : paddedFrom 2 (a :: b :: List.replicate n 0x00) = true :=
  paddedFrom_append [a, b] n

theorem eq_of_paddedFrom {n : Nat} {body : List Byte} (h : paddedFrom n body = true) :
    body = body.take n ++ List.replicate (body.length - n) 0x00 := by
  have : body.drop n = List.replicate (body.length - n) 0x00 := by
    refine List.eq_replicate_iff.mpr ⟨by simp, fun b hb => ?_⟩
    simpa using (List.all_eq_true.mp h) b hb
  rw [← this, List.take_append_drop]

theorem parse_ptype {t : PacketType} {body : List Byte} {f : Payload} (h : parse t body = some f) : f.ptype = t := by
  cases t <;> simp only [parse] at h <;> (try split at h) <;> (try split at h) <;> (try split at h) <;>
    simp_all [Payload.ptype, Option.map_eq_some_iff] <;> (try (subst h; rfl)) <;>
    (obtain ⟨_, _, rfl⟩ := h; rfl)

theorem parse_empty {t : PacketType}
    (ht : t = .initProbe ∨ t = .acknowledge ∨ t = .restart ∨ t = .metrics ∨ t = .configureOptions) :
    parse t (List.replicate 252 0x00) ≠ none := by
  rcases ht with rfl | rfl | rfl | rfl | rfl <;> simp only [parse, paddedFrom_zero] <;> decide

theorem parse_init {id : Byte} (h : assignable id) :
    parse .init (id :: List.replicate 251 0x00) = some (.init id) := by
  have h' : ¬(id = 0x00 ∨ id = 0xFF) := fun e => e.elim (fun e => h.1 e) (fun e => h.2 e)
  simp only [parse, List.getD_cons_zero, if_neg h', paddedFrom_one, if_true]

theorem parse_error (code : Byte) : parse .error (code :: List.replicate 251 0x00) = some (.error code) := by
  simp only [parse, List.getD_cons_zero, paddedFrom_one, if_true]

theorem parse_initProbeResponse_unregistered (id : Byte) :
    parse .initProbeResponse (0x00 :: id :: List.replicate 250 0x00) = some (.initProbeResponse 0x00 0x00) := by
  simp only [parse, List.getD_cons_zero, paddedFrom_two, if_true]

theorem parse_initProbeResponse_registered {id : Byte} (h : assignable id) :
    parse .initProbeResponse (0x01 :: id :: List.replicate 250 0x00) = some (.initProbeResponse 0x01 id) := by
  have h' : ¬(id = 0x00 ∨ id = 0xFF) := fun e => e.elim (fun e => h.1 e) (fun e => h.2 e)
  have h1 : (0x01 : Byte) ≠ 0x00 := by decide
  simp only [parse, List.getD_cons_zero, List.getD_cons_succ, if_neg h1, if_neg h', paddedFrom_two, if_true]

theorem parseBlob_of_data {data : List Byte} (h : data.length ≤ 251) :
    parseBlob (BitVec.ofNat 8 data.length :: data ++ List.replicate (251 - data.length) 0x00) = some data := by
  have hn : (BitVec.ofNat 8 data.length).toNat = data.length := by
    rw [BitVec.toNat_ofNat]; exact Nat.mod_eq_of_lt (by omega)
  have hp := paddedFrom_append (BitVec.ofNat 8 data.length :: data) (251 - data.length)
  rw [List.length_cons, Nat.add_comm] at hp
  rw [List.cons_append] at hp
  simp only [parseBlob, List.cons_append, List.getD_cons_zero, hn, hp, if_true, if_neg (Nat.not_lt.mpr h),
    List.drop_succ_cons, List.drop_zero, List.take_left]

theorem parseBlob_some {body data : List Byte} (hb : body.length = 252) (h : parseBlob body = some data) :
    data.length ≤ 251 ∧
    body = BitVec.ofNat 8 data.length :: data ++ List.replicate (251 - data.length) 0x00 := by
  unfold parseBlob at h
  simp only at h
  split at h
  · cases h
  split at h
  · rename_i hle hp
    cases h
    obtain ⟨n, r, rfl⟩ : ∃ n r, body = n :: r := by
      match body, hb with
      | n :: r, _ => exact ⟨n, r, rfl⟩
    have hr : r.length = 251 := by simpa using hb
    simp only [List.getD_cons_zero, List.drop_succ_cons, List.drop_zero, Nat.not_lt] at *
    have hlen : (r.take n.toNat).length = n.toNat := by simp [hr, hle]
    refine ⟨by omega, ?_⟩
    rw [hlen, BitVec.ofNat_toNat, BitVec.setWidth_eq]
    have := eq_of_paddedFrom hp
    rw [Nat.add_comm, List.take_succ_cons, hb, show 252 - (n.toNat + 1) = 251 - n.toNat by omega] at this
    simpa using this
  · cases h

end Sys2Proof
end

