-- ==== Sys2Proof/Laws/Memory.lean ====
section
/-! SUPPORT. The laws of memory: what is read after a write, and that every operation keeps the canonical form. -/

namespace Sys2Proof.Machine

theorem Memory.read_insert_same (m : Memory) (a : Nat) (b : Byte) : Memory.read (Memory.insert m a b) a = b := by
  induction m with
  | nil => simp [Memory.insert, Memory.read]
  | cons c m ih =>
    unfold Memory.insert
    split
    · simp [Memory.read]
    · split
      · simp [Memory.read]
      · rename_i h
        simp [Memory.read, h, ih]

theorem Memory.read_insert_other (m : Memory) {a x : Nat} (b : Byte) (h : x ≠ a) :
    Memory.read (Memory.insert m a b) x = Memory.read m x := by
  induction m with
  | nil => simp [Memory.insert, Memory.read, Ne.symm h]
  | cons c m ih =>
    unfold Memory.insert
    split
    · simp [Memory.read, Ne.symm h]
    · split
      · rename_i hc
        simp [Memory.read, hc, Ne.symm h]
      · simp [Memory.read, ih]

theorem Memory.read_erase_same (m : Memory) (a : Nat) : Memory.read (Memory.erase m a) a = 0x00 := by
  induction m with
  | nil => simp [Memory.erase, Memory.read]
  | cons c m ih =>
    by_cases h : c.1 = a
    · simpa [Memory.erase, List.filter_cons, h] using ih
    · simpa [Memory.erase, List.filter_cons, h, Memory.read] using ih

theorem Memory.read_erase_other (m : Memory) {a x : Nat} (h : x ≠ a) :
    Memory.read (Memory.erase m a) x = Memory.read m x := by
  induction m with
  | nil => simp [Memory.erase, Memory.read]
  | cons c m ih =>
    by_cases hc : c.1 = a
    · simpa [Memory.erase, List.filter_cons, hc, Memory.read, Ne.symm h] using ih
    · rw [show Memory.erase (c :: m) a = c :: Memory.erase m a by simp [Memory.erase, hc]]
      simp only [Memory.read, ih]

@[simp] theorem Memory.read_write_same (m : Memory) (a : Nat) (b : Byte) :
    Memory.read (Memory.write m a b) a = b := by
  unfold Memory.write
  split
  · rename_i h
    rw [Memory.read_erase_same, h]
  · exact Memory.read_insert_same m a b

theorem Memory.read_write_other (m : Memory) {a x : Nat} (b : Byte) (h : x ≠ a) :
    Memory.read (Memory.write m a b) x = Memory.read m x := by
  unfold Memory.write
  split
  · exact Memory.read_erase_other m h
  · exact Memory.read_insert_other m b h

/-- Reading outside the written bytes. -/
theorem Memory.read_writeBytes_outside (bs : List Byte) (m : Memory) {a x : Nat} (h : x < a ∨ a + bs.length ≤ x) :
    Memory.read (Memory.writeBytes m a bs) x = Memory.read m x := by
  induction bs generalizing m a with
  | nil => rfl
  | cons b bs ih =>
    simp only [List.length_cons] at h
    rw [Memory.writeBytes, ih _ (by omega), Memory.read_write_other _ _ (by omega)]

/-- Reading the `j`-th written byte. -/
theorem Memory.read_writeBytes_inside (bs : List Byte) (m : Memory) (a : Nat) {j : Nat} (h : j < bs.length) :
    Memory.read (Memory.writeBytes m a bs) (a + j) = bs[j] := by
  induction bs generalizing m a j with
  | nil => simp at h
  | cons b bs ih =>
    rw [Memory.writeBytes]
    cases j with
    | zero =>
      rw [Memory.read_writeBytes_outside _ _ (by omega)]
      simp
    | succ j =>
      simp only [List.length_cons] at h
      have := ih (Memory.write m a b) (a + 1) (j := j) (by omega)
      rw [show a + (j + 1) = a + 1 + j from by omega, this]
      simp

@[simp] theorem Memory.readBytes_length (m : Memory) (a n : Nat) : (Memory.readBytes m a n).length = n := by
  induction n generalizing a with
  | zero => rfl
  | succ n ih => simp [Memory.readBytes, ih]

theorem Memory.readBytes_getElem (m : Memory) (a n : Nat) {j : Nat} (h : j < (Memory.readBytes m a n).length) :
    (Memory.readBytes m a n)[j] = Memory.read m (a + j) := by
  induction n generalizing a j with
  | zero => simp [Memory.readBytes] at h
  | succ n ih =>
    cases j with
    | zero => simp [Memory.readBytes]
    | succ j =>
      simp only [Memory.readBytes, List.length_cons] at h
      simp only [Memory.readBytes, List.getElem_cons_succ]
      rw [ih (a + 1) (by omega), show a + 1 + j = a + (j + 1) from by omega]

/-- What was written is read. -/
theorem Memory.readBytes_writeBytes (m : Memory) (a : Nat) (bs : List Byte) :
    Memory.readBytes (Memory.writeBytes m a bs) a bs.length = bs := by
  refine List.ext_getElem (by simp) fun j h₁ h₂ => ?_
  rw [Memory.readBytes_getElem, Memory.read_writeBytes_inside _ _ _ h₂]

/-! ### The canonical form -/

theorem Memory.nil_wf : Memory.wf ([] : Memory) := by simp [Memory.wf]

theorem Memory.erase_wf {m : Memory} (a : Nat) (h : Memory.wf m) : Memory.wf (Memory.erase m a) :=
  ⟨h.1.filter _, fun c hc => h.2 c (List.mem_of_mem_filter hc)⟩

theorem Memory.mem_insert {m : Memory} {a : Nat} {b : Byte} {c : Host.Cell} (h : c ∈ Memory.insert m a b) :
    c = (a, b) ∨ c ∈ m := by
  induction m with
  | nil => simpa [Memory.insert] using h
  | cons d m ih =>
    unfold Memory.insert at h
    split at h
    · simpa using h
    · split at h
      · rcases List.mem_cons.mp h with h | h
        · exact .inl h
        · exact .inr (List.mem_cons_of_mem _ h)
      · rcases List.mem_cons.mp h with h | h
        · exact .inr (h ▸ List.mem_cons_self)
        · exact (ih h).imp id (List.mem_cons_of_mem _)

theorem Memory.insert_wf {m : Memory} {a : Nat} {b : Byte} (hb : b ≠ 0x00) (h : Memory.wf m) :
    Memory.wf (Memory.insert m a b) := by
  induction m with
  | nil => simpa [Memory.insert, Memory.wf] using hb
  | cons c m ih =>
    obtain ⟨hp, hz⟩ := h
    obtain ⟨hc, hm⟩ := List.pairwise_cons.mp hp
    have hwf : Memory.wf m := ⟨hm, fun d hd => hz d (List.mem_cons_of_mem _ hd)⟩
    unfold Memory.insert
    split
    · rename_i hlt
      refine ⟨List.pairwise_cons.mpr ⟨fun d hd => ?_, hp⟩, fun d hd => ?_⟩
      · rcases List.mem_cons.mp hd with hd | hd
        · simpa [hd] using hlt
        · exact Nat.lt_trans hlt (hc d hd)
      · rcases List.mem_cons.mp hd with hd | hd
        · simpa [hd] using hb
        · exact hz d hd
    · split
      · rename_i heq
        refine ⟨List.pairwise_cons.mpr ⟨fun d hd => ?_, hm⟩, fun d hd => ?_⟩
        · simpa [← heq] using hc d hd
        · rcases List.mem_cons.mp hd with hd | hd
          · simpa [hd] using hb
          · exact hz d (List.mem_cons_of_mem _ hd)
      · rename_i hge hne
        obtain ⟨ip, iz⟩ := ih hwf
        refine ⟨List.pairwise_cons.mpr ⟨fun d hd => ?_, ip⟩, fun d hd => ?_⟩
        · rcases Memory.mem_insert hd with hd | hd
          · simp only [hd]
            omega
          · exact hc d hd
        · rcases List.mem_cons.mp hd with hd | hd
          · exact hd ▸ hz c List.mem_cons_self
          · exact iz d hd

theorem Memory.write_wf {m : Memory} (a : Nat) (b : Byte) (h : Memory.wf m) : Memory.wf (Memory.write m a b) := by
  unfold Memory.write
  split
  · exact Memory.erase_wf a h
  · rename_i hb
    exact Memory.insert_wf hb h

theorem Memory.writeBytes_wf {m : Memory} (a : Nat) (bs : List Byte) (h : Memory.wf m) :
    Memory.wf (Memory.writeBytes m a bs) := by
  induction bs generalizing m a with
  | nil => exact h
  | cons b bs ih => exact ih (a + 1) (Memory.write_wf a b h)

end Sys2Proof.Machine
end

