-- ==== Sys2Proof/Laws/Packets.lean ====
section
/-! SUPPORT. The laws of the packet types: what `exec` does with a frame at a board and at the Controller, and what a
board's answer is. -/

namespace Sys2Proof.Machine

/-! ### The shared operations -/

/-- A frame at a board. -/
theorem State.frameReceived_board {s : State} {k : Nat} {e : Extension} (ha : s.active = .slot k)
    (hb : s.board k = some e) (rid : Byte) (t : PacketType) (body : List Byte) :
    s.frameReceived rid t body = s.setBoard k (e.frameReceived rid t body) := by
  simp [State.frameReceived, State.mapNode, ha, State.mapBoard_eq_setBoard _ hb]

/-- A failed decode at a board. -/
theorem State.decodeFailed_board {s : State} {k : Nat} {e : Extension} (ha : s.active = .slot k)
    (hb : s.board k = some e) (reason : DecodeError) :
    s.decodeFailed reason = s.setBoard k (e.decodeFailed reason) := by
  simp [State.decodeFailed, State.mapNode, ha, State.mapBoard_eq_setBoard _ hb]

/-- A frame at the Controller. -/
theorem State.frameReceived_controller {s : State} (ha : s.active = .controller) (rid : Byte) (t : PacketType)
    (body : List Byte) : s.frameReceived rid t body = { s with ctrl := s.ctrl.frameReceived rid t body } := by
  simp [State.frameReceived, State.mapNode, ha, State.mapCtrl]

/-- A failed decode at the Controller. -/
theorem State.decodeFailed_controller {s : State} (ha : s.active = .controller) (reason : DecodeError) :
    s.decodeFailed reason = { s with ctrl := s.ctrl.decodeFailed reason } := by
  simp [State.decodeFailed, State.mapNode, ha, State.mapCtrl]

/-- Every packet type runs `FrameReceived` at the active node. -/
theorem exec_packetInstr (t : PacketType) (rid : Byte) (body : List Byte) (s : State) :
    exec (packetInstr t rid body) s = .next (s.frameReceived rid t body) := by
  cases t <;> rfl

/-- Every unassigned type runs `FrameDecodeFailed(UnknownType)` at the active node. -/
theorem exec_unassignedInstr (t rid : Byte) (body : List Byte) (s : State) :
    ∃ t', exec (unassignedInstr t rid body) s = .next (s.decodeFailed (.unknownType rid t')) := by
  unfold unassignedInstr
  split <;> (try split) <;> (try split) <;> (try split) <;> (try split) <;> exact ⟨_, rfl⟩

/-! ### Answers -/

/-- A response that fits is sent. -/
theorem Extension.reply_eq_sending (e : Extension) (p : Payload) (h : (serialize p).length ≤ 252) :
    e.reply p = { e with framer := e.sending p.ptype.code (serialize p) } := by
  simp [Extension.reply, encodePacket, payloadMax, Nat.not_lt.mpr h, Extension.sending, padBody, masterId, zeros]

/-- A response that does not fit is not. -/
theorem Extension.reply_eq_self (e : Extension) (p : Payload) (h : 252 < (serialize p).length) : e.reply p = e := by
  simp [Extension.reply, encodePacket, payloadMax, h]

theorem Extension.replyError_eq_sendsError (e : Extension) (code : Byte) : e.replyError code = e.sendsError code := by
  simp [Extension.replyError, Extension.reply_eq_sending, serialize, Extension.raiseEvents, Extension.sendsError,
    Payload.ptype, PacketType.code, errorSentEv]

theorem Memory.readBytes_eq_bufferBytes (m : Memory) (a n : Nat) : Memory.readBytes m a n = bufferBytes m a n := by
  induction n generalizing a with
  | zero => rfl
  | succ n ih =>
    rw [Memory.readBytes, ih]
    simp only [bufferBytes, List.range_succ_eq_map, List.map_cons, List.map_map, Nat.add_zero]
    congr 1
    refine List.map_congr_left fun j _ => ?_
    simp only [Function.comp]
    congr 1
    omega

@[simp] theorem bufferBytes_length (m : Memory) (a n : Nat) : (bufferBytes m a n).length = n := by simp [bufferBytes]

end Sys2Proof.Machine
end

