-- ==== Sys2Proof/Laws/Controller.lean ====
section
/-! SUPPORT. The laws of the Controller: its registry and the shared operations of its sequences. -/

namespace Sys2Proof.Machine

/-! ### The Registry -/

theorem Controller.record_setRecord (c : Controller) (i j : Byte) (r : Record) :
    (c.setRecord i r).record j = if j = i then r else c.record j := by
  simp only [Controller.record, Controller.setRecord, Vector.getElem_set]
  by_cases h : j = i
  · simp [h]
  · have : i.toNat ≠ j.toNat := fun h' => h (BitVec.eq_of_toNat_eq h'.symm)
    simp [h, this]

theorem Controller.record_setStatus (c : Controller) (i j : Byte) (st : RecStatus) :
    (c.setStatus i st).record j = if j = i then { c.record j with status := st } else c.record j := by
  rw [Controller.setStatus, Controller.record_setRecord]
  split
  · rename_i h
    rw [h]
  · rfl

theorem Controller.record_touch (c : Controller) (i j : Byte) :
    (c.touch i).record j = if j = i then { c.record j with last := c.now } else c.record j := by
  rw [Controller.touch, Controller.record_setRecord]
  split
  · rename_i h
    rw [h]
  · rfl

theorem mapRegistry_getElem (f : Record → Record) (v : Vector Record 256) {i : Nat} (h : i < 256) :
    (mapRegistry f v)[i] = f v[i] := by
  simp [mapRegistry]

/-- The records see only the Registry. -/
theorem Controller.record_congr {c d : Controller} (h : d.registry = c.registry) (i : Byte) : d.record i = c.record i := by
  simp [Controller.record, h]

/-! ### The gap count of a tick -/

/-- The gap rule of the Controller changes only the receiver's counts: no state acts on a LengthMismatch
(42_controller_registration.md rule R269, 43_controller_commands.md rule R297). -/
theorem Controller.tickGap_eq (c : Controller) :
    c.tickGap = { c with framer := (c.framer.gapTick c.params.tGap).1 } := by
  unfold Controller.tickGap
  rcases c.framer.gapTick c.params.tGap with ⟨fr, _ | n⟩ <;> rfl

/-! ### Bits -/

theorem getLsbD_one_shiftLeft (k j : Nat) : (1#32 <<< k).getLsbD j = decide (j = k ∧ k < 32) := by
  rw [BitVec.getLsbD_shiftLeft, BitVec.getLsbD_one]
  by_cases h : j = k <;> by_cases hk : k < 32 <;> simp [h, hk] <;> omega

theorem getLsbD_setBit (v : BitVec 32) (k j : Nat) (b : Bool) :
    (setBit v k b).getLsbD j = if j = k ∧ k < 32 then b else v.getLsbD j := by
  by_cases hj : j < 32
  · cases b <;>
      simp only [setBit, Bool.false_eq_true, if_false, if_true, BitVec.getLsbD_or, BitVec.getLsbD_and,
        BitVec.getLsbD_not, getLsbD_one_shiftLeft, hj] <;>
      by_cases h : j = k ∧ k < 32 <;> simp [h]
  · have h : ¬(j = k ∧ k < 32) := by omega
    rw [if_neg h, BitVec.getLsbD_of_ge _ _ (by omega), BitVec.getLsbD_of_ge _ _ (by omega)]

theorem getLsbD_lowMask {n k : Nat} (h : n ≤ 32) : (lowMask n).getLsbD k = decide (k < n) := by
  simp only [lowMask, BitVec.getLsbD_ushiftRight, BitVec.getLsbD_allOnes]
  congr 1
  rw [eq_iff_iff]
  omega

/-! ### The sequences -/

/-- A completion writes the registers of rule R293 and its data to RXBUF. -/
theorem Controller.complete_eq (c : Controller) (r : ResultCode) (info : Byte) (data : List Byte) :
    c.complete r info data =
      { c.finished r (BitVec.ofNat 8 data.length) info with mem := Memory.writeBytes c.mem 0x200 data } := rfl

theorem Controller.complete_nil (c : Controller) (r : ResultCode) (info : Byte) :
    c.complete r info [] = c.finished r 0 info := rfl

/-- A request with a REGISTERED target and a payload that fits is sent. -/
theorem Controller.request_sent {c : Controller} {t : Byte} {p : Payload} {exp : PacketType} (ht : assignable t)
    (hr : (c.record t).status = .registered) (hp : (serialize p).length ≤ 252) :
    c.request t p exp = c.startExchange t (packetFrame c.params t p) exp.code := by
  have h1 : c.checkTarget t = none := by
    have : ¬(t = 0x00 ∨ t = 0xFF) := fun h => h.elim (fun h => ht.1 h) (fun h => ht.2 h)
    unfold Controller.checkTarget
    rw [if_neg this, hr]
    rfl
  unfold Controller.request
  simp only [h1, encodePacket, payloadMax, Nat.not_lt.mpr hp, if_false]
  rfl

/-- The next state of a failed attempt of a registration. -/
theorem Controller.regAttemptFailed_eq (c : Controller) :
    c.regAttemptFailed =
      if (c.attempts + 1).toNat ≤ c.params.rRetries.toNat then
        { Controller.send { c with attempts := c.attempts + 1 } c.txFrame with cst := .regTx }
      else Controller.exhaustRegistration { c with attempts := c.attempts + 1 } := rfl

end Sys2Proof.Machine
end

