-- ==== Sys2Proof/Laws/Extension.lean ====
section
/-! SUPPORT. The laws of a board: what each operation of its state machine can do to its framer, its parameters and its
lines. -/

namespace Sys2Proof.Machine

/-! ### The framer -/

/-- One gap tick: an empty receiver, a partial frame given up, or one more idle tick. -/
theorem Framer.gapTick_cases (fr : Framer) (tGap : BitVec 16) :
    (fr.rxCount = 0 ∧ fr.gapTick tGap = (fr, none)) ∨
    (fr.rxCount ≠ 0 ∧ fr.gapCount + 1 = tGap ∧
      fr.gapTick tGap = ({ fr with rxCount := 0, gapCount := 0 }, some fr.rxCount.toNat)) ∨
    (fr.rxCount ≠ 0 ∧ fr.gapCount + 1 ≠ tGap ∧ fr.gapTick tGap = ({ fr with gapCount := fr.gapCount + 1 }, none)) := by
  unfold Framer.gapTick
  split
  · exact .inl ⟨‹_›, rfl⟩
  · split
    · exact .inr (.inl ⟨‹_›, ‹_›, rfl⟩)
    · exact .inr (.inr ⟨‹_›, ‹_›, rfl⟩)

theorem Framer.gapTick_frame (fr : Framer) (tGap : BitVec 16) :
    (fr.gapTick tGap).1.rxBuf = fr.rxBuf ∧ (fr.gapTick tGap).1.txBusy = fr.txBusy ∧
    (fr.gapTick tGap).1.outbox = fr.outbox := by
  rcases Framer.gapTick_cases fr tGap with ⟨_, h⟩ | ⟨_, _, h⟩ | ⟨_, _, h⟩ <;> rw [h] <;> exact ⟨rfl, rfl, rfl⟩

/-- One received byte: discarded, stored, or the last of a frame. -/
theorem Framer.rxByte_cases (fr : Framer) (b : Byte) :
    (fr.txBusy = true ∧ fr.rxByte b = (fr, none)) ∨
    (fr.txBusy = false ∧ fr.rxCount ≠ 255 ∧ fr.rxByte b = ({ fr with
      rxBuf := Memory.write fr.rxBuf fr.rxCount.toNat b, gapCount := 0, rxCount := fr.rxCount + 1 }, none)) ∨
    (fr.txBusy = false ∧ fr.rxCount = 255 ∧ fr.rxByte b = ({ fr with
      rxBuf := Memory.write fr.rxBuf 255 b, gapCount := 0, rxCount := 0 },
      some (Memory.readBytes (Memory.write fr.rxBuf 255 b) 0 256))) := by
  unfold Framer.rxByte
  cases h : fr.txBusy
  · by_cases h' : fr.rxCount = 255
    · refine .inr (.inr ⟨rfl, h', ?_⟩)
      simp [h', frameLen]
    · refine .inr (.inl ⟨rfl, h', ?_⟩)
      simp only [Bool.false_eq_true, if_false, if_neg h']
  · exact .inl ⟨rfl, by simp⟩

/-! ### The board -/

@[simp] theorem Extension.decodeFailed_lengthMismatch (e : Extension) (n : Nat) :
    e.decodeFailed (.lengthMismatch n) = e := rfl

theorem Extension.sampleSel_frame (e : Extension) (level : Bool) :
    (e.sampleSel level).framer = e.framer ∧ (e.sampleSel level).params = e.params ∧
    (e.sampleSel level).readyOut = e.readyOut ∧ (e.sampleSel level).extId = e.extId ∧
    (e.sampleSel level).mem = e.mem ∧ (e.sampleSel level).selSync = level ∧
    (e.sampleSel level).selPrev = e.selSync := by
  unfold Extension.sampleSel
  simp only
  split
  · exact ⟨rfl, rfl, rfl, rfl, rfl, rfl, rfl⟩
  · rename_i h
    simp only [ne_eq, not_not] at h
    exact ⟨rfl, rfl, rfl, rfl, rfl, h.symm, rfl⟩

/-- A tick is the sampling of SEL and the receiver's gap tick. -/
theorem Extension.tick_eq (e : Extension) (level : Bool) :
    e.tick level = { e.sampleSel level with framer := (e.framer.gapTick e.params.tGap).1 } := by
  obtain ⟨h1, h2, -⟩ := Extension.sampleSel_frame e level
  unfold Extension.tick
  rw [← h1, ← h2]
  simp only
  split <;> rfl

/-- The framer is left alone or handed one response. -/
theorem Extension.reply_framer (e : Extension) (p : Payload) :
    (e.reply p).framer = e.framer ∨ ∃ t pl, pl.length ≤ 252 ∧ (e.reply p).framer = e.sending t pl := by
  by_cases h : (serialize p).length ≤ 252
  · exact .inr ⟨_, _, h, by rw [Extension.reply_eq_sending e p h]⟩
  · exact .inl (by rw [Extension.reply_eq_self e p (by omega)])

theorem Extension.replyError_framer (e : Extension) (code : Byte) :
    ∃ t pl, pl.length ≤ 252 ∧ (e.replyError code).framer = e.sending t pl :=
  ⟨0x05, [code], by simp, by rw [Extension.replyError_eq_sendsError]; rfl⟩

/-- What a received frame can do to the framer: nothing, or one response handed to the Transport. -/
theorem Extension.frameReceived_framer (e : Extension) (rid : Byte) (t : PacketType) (body : List Byte) :
    (e.frameReceived rid t body).framer = e.framer ∨
      ∃ c pl, pl.length ≤ 252 ∧ (e.frameReceived rid t body).framer = e.sending c pl := by
  unfold Extension.frameReceived
  split
  · unfold Extension.register
    split
    · exact Extension.reply_framer _ _
    · exact .inl rfl
  · unfold Extension.reRegister
    split
    · exact Extension.reply_framer _ _
    · exact .inl rfl
  · unfold Extension.answerProbe
    split
    · split
      · exact .inr (Extension.replyError_framer _ _)
      · exact .inl rfl
    · split <;> exact Extension.reply_framer _ _
  · unfold Extension.doRestart
    split
    · split
      · exact .inr (Extension.replyError_framer _ _)
      · exact .inl rfl
    · exact .inl rfl
  · unfold Extension.answerMetrics
    split
    · exact .inr (Extension.replyError_framer _ _)
    · split
      · exact .inr (Extension.replyError_framer _ _)
      · exact Extension.reply_framer _ _
  · unfold Extension.storeConfig
    split
    · exact Extension.reply_framer _ _
    · exact .inr (Extension.replyError_framer _ _)
  · unfold Extension.answerOptions
    split
    · exact .inr (Extension.replyError_framer _ _)
    · split
      · exact .inr (Extension.replyError_framer _ _)
      · exact Extension.reply_framer _ _
  · exact .inr (Extension.replyError_framer _ _)
  · exact .inl rfl

/-- The same of a failed decode. -/
theorem Extension.decodeFailed_framer (e : Extension) (reason : DecodeError) :
    (e.decodeFailed reason).framer = e.framer ∨
      ∃ c pl, pl.length ≤ 252 ∧ (e.decodeFailed reason).framer = e.sending c pl := by
  cases reason with
  | unknownType rid t =>
    unfold Extension.decodeFailed
    simp only
    split
    · exact .inr (Extension.replyError_framer _ _)
    · exact .inl rfl
  | lengthMismatch n => exact .inl rfl
  | versionMismatch v => exact .inl rfl
  | checksumMismatch c => exact .inl rfl

@[simp] theorem Extension.reply_params (e : Extension) (p : Payload) : (e.reply p).params = e.params := by
  unfold Extension.reply
  split <;> rfl

@[simp] theorem Extension.replyError_params (e : Extension) (code : Byte) : (e.replyError code).params = e.params := by
  rw [Extension.replyError_eq_sendsError]
  rfl

/-- A received frame never changes the parameters. -/
@[simp] theorem Extension.frameReceived_params (e : Extension) (rid : Byte) (t : PacketType) (body : List Byte) :
    (e.frameReceived rid t body).params = e.params := by
  unfold Extension.frameReceived Extension.register Extension.reRegister Extension.answerProbe Extension.doRestart
    Extension.answerMetrics Extension.storeConfig Extension.answerOptions
  split <;> (try split) <;> (try split) <;> simp [Extension.raiseEvents]

end Sys2Proof.Machine
end

