-- ==== Sys2Proof/Laws/PerInstr.lean ====
section
/-! SUPPORT. Laws stated for each instruction: the form of its encoding (30_encoding.md rules R130, R150, R153). -/

namespace Sys2Proof.Laws

/-- A well-formed packet type is encoded as a frame of 256 bytes that begins with PROTOCOL_VERSION, a command as a
word, and exactly the framer operations have no encoding. -/
def EncodedForm.Statement (i : Instr) : Prop :=
  ∀ p : Params,
    match encode p i with
    | some (.frame bytes) =>
        i.isFramerOp = false ∧ (i.wellFormed = true → bytes.length = 256 ∧ bytes.getD 0 0 = p.protocolVersion)
    | some (.command _) => i.isFramerOp = false ∧ i.wellFormed = true
    | none => i.isFramerOp = true

/-- The form of the frame with 252 body bytes. -/
theorem frameBytes_form (p : Params) (rid t : Byte) (body : List Byte) (h : wellFormedBody body = true) :
    (frameBytes p rid t body).length = 256 ∧ (frameBytes p rid t body).getD 0 0 = p.protocolVersion := by
  have hl : body.length = 252 := by simpa [payloadMax] using h
  exact ⟨by simp [frameBytes, hl], rfl⟩

theorem EncodedForm.initProbe (rid : Byte) (body : List Byte) : EncodedForm.Statement (.initProbe rid body) :=
  fun p => ⟨rfl, frameBytes_form p _ _ body⟩

theorem EncodedForm.initProbeResponse (rid : Byte) (body : List Byte) : EncodedForm.Statement (.initProbeResponse rid body) :=
  fun p => ⟨rfl, frameBytes_form p _ _ body⟩

theorem EncodedForm.init (rid : Byte) (body : List Byte) : EncodedForm.Statement (.init rid body) :=
  fun p => ⟨rfl, frameBytes_form p _ _ body⟩

theorem EncodedForm.acknowledge (rid : Byte) (body : List Byte) : EncodedForm.Statement (.acknowledge rid body) :=
  fun p => ⟨rfl, frameBytes_form p _ _ body⟩

theorem EncodedForm.error (rid : Byte) (body : List Byte) : EncodedForm.Statement (.error rid body) :=
  fun p => ⟨rfl, frameBytes_form p _ _ body⟩

theorem EncodedForm.restart (rid : Byte) (body : List Byte) : EncodedForm.Statement (.restart rid body) :=
  fun p => ⟨rfl, frameBytes_form p _ _ body⟩

theorem EncodedForm.configure (rid : Byte) (body : List Byte) : EncodedForm.Statement (.configure rid body) :=
  fun p => ⟨rfl, frameBytes_form p _ _ body⟩

theorem EncodedForm.metrics (rid : Byte) (body : List Byte) : EncodedForm.Statement (.metrics rid body) :=
  fun p => ⟨rfl, frameBytes_form p _ _ body⟩

theorem EncodedForm.metricsResponse (rid : Byte) (body : List Byte) : EncodedForm.Statement (.metricsResponse rid body) :=
  fun p => ⟨rfl, frameBytes_form p _ _ body⟩

theorem EncodedForm.configureOptions (rid : Byte) (body : List Byte) : EncodedForm.Statement (.configureOptions rid body) :=
  fun p => ⟨rfl, frameBytes_form p _ _ body⟩

theorem EncodedForm.configureOptionsResponse (rid : Byte) (body : List Byte) : EncodedForm.Statement (.configureOptionsResponse rid body) :=
  fun p => ⟨rfl, frameBytes_form p _ _ body⟩

theorem EncodedForm.unassigned00 (rid : Byte) (body : List Byte) : EncodedForm.Statement (.unassigned00 rid body) :=
  fun p => ⟨rfl, frameBytes_form p _ _ body⟩

theorem EncodedForm.unassigned0C (low : BitVec 2) (rid : Byte) (body : List Byte) :
    EncodedForm.Statement (.unassigned0C low rid body) := fun p => ⟨rfl, frameBytes_form p _ _ body⟩

theorem EncodedForm.unassigned10 (low : BitVec 4) (rid : Byte) (body : List Byte) :
    EncodedForm.Statement (.unassigned10 low rid body) := fun p => ⟨rfl, frameBytes_form p _ _ body⟩

theorem EncodedForm.unassigned20 (low : BitVec 5) (rid : Byte) (body : List Byte) :
    EncodedForm.Statement (.unassigned20 low rid body) := fun p => ⟨rfl, frameBytes_form p _ _ body⟩

theorem EncodedForm.unassigned40 (low : BitVec 6) (rid : Byte) (body : List Byte) :
    EncodedForm.Statement (.unassigned40 low rid body) := fun p => ⟨rfl, frameBytes_form p _ _ body⟩

theorem EncodedForm.unassigned80 (low : BitVec 7) (rid : Byte) (body : List Byte) :
    EncodedForm.Statement (.unassigned80 low rid body) := fun p => ⟨rfl, frameBytes_form p _ _ body⟩

theorem EncodedForm.cmdMetrics (target len rsvd : Byte) : EncodedForm.Statement (.cmdMetrics target len rsvd) :=
  fun _ => ⟨rfl, rfl⟩

theorem EncodedForm.cmdConfigure (target len rsvd : Byte) : EncodedForm.Statement (.cmdConfigure target len rsvd) :=
  fun _ => ⟨rfl, rfl⟩

theorem EncodedForm.cmdConfigOptions (target len rsvd : Byte) : EncodedForm.Statement (.cmdConfigOptions target len rsvd) :=
  fun _ => ⟨rfl, rfl⟩

theorem EncodedForm.cmdRestart (target len rsvd : Byte) : EncodedForm.Statement (.cmdRestart target len rsvd) :=
  fun _ => ⟨rfl, rfl⟩

theorem EncodedForm.cmdProbe (target len rsvd : Byte) : EncodedForm.Statement (.cmdProbe target len rsvd) :=
  fun _ => ⟨rfl, rfl⟩

theorem EncodedForm.cmdResetRegistry (target len rsvd : Byte) : EncodedForm.Statement (.cmdResetRegistry target len rsvd) :=
  fun _ => ⟨rfl, rfl⟩

theorem EncodedForm.reserved00 (target len rsvd : Byte) : EncodedForm.Statement (.reserved00 target len rsvd) :=
  fun _ => ⟨rfl, rfl⟩

theorem EncodedForm.reserved07 (target len rsvd : Byte) : EncodedForm.Statement (.reserved07 target len rsvd) :=
  fun _ => ⟨rfl, rfl⟩

theorem EncodedForm.reserved08 (low : BitVec 3) (target len rsvd : Byte) :
    EncodedForm.Statement (.reserved08 low target len rsvd) := fun _ => ⟨rfl, rfl⟩

theorem EncodedForm.reserved10 (low : BitVec 4) (target len rsvd : Byte) :
    EncodedForm.Statement (.reserved10 low target len rsvd) := fun _ => ⟨rfl, rfl⟩

theorem EncodedForm.reserved20 (low : BitVec 5) (target len rsvd : Byte) :
    EncodedForm.Statement (.reserved20 low target len rsvd) := fun _ => ⟨rfl, rfl⟩

theorem EncodedForm.reserved40 (low : BitVec 6) (target len rsvd : Byte) :
    EncodedForm.Statement (.reserved40 low target len rsvd) := fun _ => ⟨rfl, rfl⟩

theorem EncodedForm.reserved80 (low : BitVec 7) (target len rsvd : Byte) :
    EncodedForm.Statement (.reserved80 low target len rsvd) := fun _ => ⟨rfl, rfl⟩

theorem EncodedForm.crc8 (bytes : List Byte) : EncodedForm.Statement (.crc8 bytes) := fun _ => rfl

theorem EncodedForm.encode (rid : Byte) (payload : Payload) : EncodedForm.Statement (.encode rid payload) :=
  fun _ => rfl

theorem EncodedForm.decode (bytes : List Byte) : EncodedForm.Statement (.decode bytes) := fun _ => rfl

theorem EncodedForm.parse (ptype : PacketType) (body : List Byte) : EncodedForm.Statement (.parse ptype body) :=
  fun _ => rfl

end Sys2Proof.Laws
end

