-- ==== Sys2Proof/Laws/Step.lean ====
section
/-! SUPPORT. The laws of the step: which event it takes, and what the parts of an event keep. -/

namespace Sys2Proof.Machine

/-! ### The next event -/

/-- A step with one event waiting handles that event. -/
theorem step_of_single {s : State} {ev : Event} {rest : List (List Event)} (h : s.inputs = [ev] :: rest) :
    step s = State.handle { s with inputs := rest } ev := by
  simp only [step, State.stepEvent, State.nextEvent, h, State.takeFrom, takeFirst, pushInstant]

theorem takeFirst_mem {es es' : List Event} {ev : Event} (h : takeFirst es = some (ev, es')) : ev ∈ es := by
  induction es generalizing ev es' with
  | nil => cases h
  | cons a as ih =>
    simp only [takeFirst] at h
    split at h
    · cases h
      exact List.mem_cons_self
    · rename_i h'
      split at h
      · cases h
        exact List.mem_cons_self
      · cases h
        exact List.mem_cons_of_mem _ (ih h')

/-- The first event of the lowest rank is taken, and the others stay in their order. -/
theorem takeFirst_lowest {pre post : List Event} {ev : Event} (hpre : ∀ e ∈ pre, eventRank ev < eventRank e)
    (hpost : ∀ e ∈ post, eventRank ev ≤ eventRank e) : takeFirst (pre ++ ev :: post) = some (ev, pre ++ post) := by
  induction pre with
  | nil =>
    simp only [List.nil_append, takeFirst]
    cases h : takeFirst post with
    | none =>
      cases post with
      | nil => rfl
      | cons a as =>
        simp only [takeFirst] at h
        split at h
        · cases h
        · split at h <;> cases h
    | some x => simp [hpost x.1 (takeFirst_mem h)]
  | cons a as ih =>
    have := hpre a List.mem_cons_self
    simp only [List.cons_append, takeFirst, ih fun e he => hpre e (List.mem_cons_of_mem _ he)]
    rw [if_neg (by omega)]

/-! ### The tick strobe -/

/-- The strobe reaches exactly the nodes with a core. -/
theorem State.mem_cores {s : State} {n : Node} : n ∈ s.cores ↔ (s.params n).isSome = true := by
  cases n with
  | controller => simp [State.cores, State.params]
  | slot k =>
    simp only [State.cores, List.mem_cons, reduceCtorEq, List.mem_filter, List.mem_map, List.mem_range, Node.slot.injEq,
      exists_eq_right, State.present, false_or, and_iff_right_iff_imp]
    intro h
    by_contra hk
    simp [State.params, State.board, List.getElem?_eq_none (by omega : s.slots.length ≤ k)] at h

/-- And each once. -/
theorem State.nodup_cores (s : State) : s.cores.Nodup := by
  refine List.nodup_cons.2 ⟨by simp, ?_⟩
  exact ((List.nodup_range).map fun _ _ h => Node.slot.inj h).filter _

/-! ### The lines -/

/-- A step that changes nothing drives no line. -/
theorem State.driveLines_self (s : State) : s.driveLines s = s := by
  rw [State.driveLines, driveSlots_eq_self _ _ _ _ rfl fun j o sl h1 h2 => by rw [Option.some.inj (h1.symm.trans h2)]]

/-! ### The wires -/

/-- Writing the wire a node has changes nothing. -/
theorem State.setWire_self (s : State) (n : Node) : s.setWire n (s.wire n) = s := by
  cases n with
  | controller => rfl
  | slot k =>
    have : s.slots.modify k (fun sl => { sl with wire := s.wire (.slot k) }) = s.slots := by
      refine List.ext_getElem? fun j => ?_
      rw [List.getElem?_modify]
      by_cases hj : k = j
      · subst hj
        cases hs : s.slots[k]? <;> simp [State.wire, hs]
      · simp [hj]
    simp only [State.setWire, State.mapSlot, this]

end Sys2Proof.Machine
end

