-- ==== Sys2Proof/Tests/Slice0.lean ====
section
/-! SUPPORT. The tests: ill-formed terms the checks refuse, words written out from the spec's encodings, one-step tests
of every instruction with the expected values of 95_test_vectors.md (the vector is named in each docstring), and a
witness for every statement that has hypotheses. -/

namespace Sys2Proof.Tests

set_option Elab.async false

open Sys2Proof Sys2Proof.Machine

/-! ### Small states -/

/-- The frame with the given first bytes, zeros up to byte 254, and the given CRC byte (30_encoding.md rule R145). -/
def frame (head : List Byte) (crc : Byte) : List Byte := head ++ List.replicate (255 - head.length) 0x00 ++ [crc]

/-- The body with the given first bytes. -/
def body (head : List Byte) : List Byte := head ++ List.replicate (252 - head.length) 0x00

/-- A body whose last padding byte is 0x01. -/
def badBody : List Byte := List.replicate 251 0x00 ++ [0x01]

/-- F-ACK of 95_test_vectors.md section 0.1. -/
def fAck : List Byte := frame [0x01, 0x00, 0x04] 0x6A

/-- F-INIT1. -/
def fInit1 : List Byte := frame [0x01, 0xFF, 0x03, 0x01] 0x65

/-- F-ERR1, F-ERR2, F-ERR3 and F-ERR4. -/
def fErr : Nat → List Byte
  | 1 => frame [0x01, 0x00, 0x05, 0x01] 0x42
  | 2 => frame [0x01, 0x00, 0x05, 0x02] 0x56
  | 3 => frame [0x01, 0x00, 0x05, 0x03] 0xA7
  | _ => frame [0x01, 0x00, 0x05, 0x04] 0x7E

/-- A board in a state of its state machine. -/
def board (est : EState) (id : Byte) (sel : Bool) : Extension :=
  { Extension.reset Params.vectors sel [] [] with est := est, extId := id, readyOut := decide (est ≠ .registered) }

/-- REG(1) with SEL released. -/
def reg1 : Extension := board .registered 0x01 false

/-- REG(1) with SEL asserted. -/
def reg1Sel : Extension := board .registered 0x01 true

/-- SELECTED. -/
def selected : Extension := board .selected 0x00 true

/-- The bus after reset with the board `e` in slot 0, where the step is in progress. -/
def atBoard (e : Extension) : State := { State.reset.setBoard 0 e with active := .slot 0 }

/-- The Controller after reset with `rec_status[1]` = REGISTERED, `next_id` = 2 and `NOW` = 0x100 (95_test_vectors.md
section 10). -/
def ctrl : Controller :=
  { State.reset.ctrl.setRecord 0x01 { status := .registered, last := 0 } with nextId := 0x02, now := 0x100 }

/-- `ctrl` in CMD_WAIT for the command word `w`, awaiting the type `exp` from the target of `w`. -/
def waiting (w : Word) (exp : Byte) : Controller :=
  { ctrl with cst := .cmdWait, curCmd := w, curId := targetOf w, expType := exp, timerArmed := true, timerCount := 7 }

/-- A Controller in REG_WAIT for slot 0 and ID 1 (vector G6). -/
def registering : Controller :=
  { State.reset.ctrl.setRecord 0x01 { status := .registering, last := 0 } with
    nextId := 0x02, now := 5, cst := .regWait, curId := 0x01, selOut := 1, timerArmed := true, timerCount := 100
    txFrame := fInit1 }

/-- The bus after reset with the Controller `c`, where the step is in progress. -/
def atCtrl (c : Controller) : State := { State.reset with ctrl := c, active := .controller }

/-- The state a step answers. -/
def nextOf : Host.Outcome State Fault Refusal → Option State
  | .next s => some s
  | .fault _ => none
  | .refused _ => none

/-- The board in slot 0 after a step. -/
def boardAfter (o : Host.Outcome State Fault Refusal) : Option Extension := (nextOf o).bind (fun s => s.board 0)

/-- The Controller after a step. -/
def ctrlAfter (o : Host.Outcome State Fault Refusal) : Option Controller := (nextOf o).map (fun s => s.ctrl)

/-- The result of a framer operation after a step. -/
def resultAfter (o : Host.Outcome State Fault Refusal) : Option FramerResult := (nextOf o).bind (fun s => s.framerResult)

/-- What the host reads of STATUS, and the frame that was sent, after a command word ran. -/
def ran (w : Word) (c : Controller) : Option (Word × Option (List Byte)) :=
  (ctrlAfter (exec (decodeCommand w) (atCtrl { c with curCmd := w }))).map (fun t => (t.statusWord, t.framer.outbox))

/-! ### Ill-formed terms -/

theorem test_frame_body_of_251_bytes_refused :
    (Instr.initProbe 0xFF (zeros 251)).wellFormed = false ∧ (Instr.initProbeResponse 0 (zeros 251)).wellFormed = false ∧
    (Instr.init 0xFF (zeros 251)).wellFormed = false ∧ (Instr.acknowledge 0 (zeros 251)).wellFormed = false ∧
    (Instr.error 0 (zeros 251)).wellFormed = false ∧ (Instr.restart 0 (zeros 251)).wellFormed = false ∧
    (Instr.configure 1 (zeros 251)).wellFormed = false ∧ (Instr.metrics 1 (zeros 251)).wellFormed = false ∧
    (Instr.metricsResponse 0 (zeros 251)).wellFormed = false ∧
    (Instr.configureOptions 1 (zeros 251)).wellFormed = false ∧
    (Instr.configureOptionsResponse 0 (zeros 251)).wellFormed = false := by decide +kernel

theorem test_frame_body_of_253_bytes_refused :
    (Instr.unassigned00 0 (zeros 253)).wellFormed = false ∧ (Instr.unassigned0C 0 0 (zeros 253)).wellFormed = false ∧
    (Instr.unassigned10 0 0 (zeros 253)).wellFormed = false ∧ (Instr.unassigned20 0 0 (zeros 253)).wellFormed = false ∧
    (Instr.unassigned40 0 0 (zeros 253)).wellFormed = false ∧
    (Instr.unassigned80 0 0 (zeros 253)).wellFormed = false := by decide +kernel

theorem test_decode_operand_of_257_bytes_refused : (Instr.decode (zeros 257)).wellFormed = false := by decide +kernel

theorem test_parse_operand_of_251_bytes_refused :
    (Instr.parse .acknowledge (zeros 251)).wellFormed = false := by decide +kernel

theorem test_init_payload_id_refused :
    (Payload.init 0x00).wellFormed = false ∧ (Payload.init 0xFF).wellFormed = false := by decide

theorem test_probe_response_payload_refused :
    (Payload.initProbeResponse 0x02 0x01).wellFormed = false ∧
    (Payload.initProbeResponse 0x01 0x00).wellFormed = false ∧
    (Payload.initProbeResponse 0x01 0xFF).wellFormed = false ∧
    (Payload.initProbeResponse 0x00 0x5A).wellFormed = false := by decide

theorem test_blob_of_252_bytes_refused :
    (Payload.configure (zeros 252)).wellFormed = false ∧ (Payload.metricsResponse (zeros 252)).wellFormed = false ∧
    (Payload.configureOptionsResponse (zeros 252)).wellFormed = false := by decide +kernel

theorem test_parameters_refused :
    ¬ { Params.vectors with tTimeout := 0 }.ok ∧ ¬ { Params.vectors with nslots := 0 }.ok ∧
    ¬ { Params.vectors with nslots := 33 }.ok ∧ ¬ { Params.vectors with tGap := 0 }.ok := by decide

/-! ### Decoding: the frames of 95_test_vectors.md section 0.1 -/

/-- F-PROBE -/
theorem test_decode_initProbe : decode Params.vectors (.frame (frame [0x01, 0xFF, 0x01] 0x21)) =
    .ok (.initProbe 0xFF (body [])) := by decide +kernel

/-- F-IPR1-2 -/
theorem test_decode_initProbeResponse :
    decode Params.vectors (.frame (frame [0x01, 0x00, 0x02, 0x01, 0x02] 0xD7)) =
    .ok (.initProbeResponse 0x00 (body [0x01, 0x02])) := by decide +kernel

/-- F-INIT1 -/
theorem test_decode_init : decode Params.vectors (.frame (frame [0x01, 0xFF, 0x03, 0x01] 0x65)) =
    .ok (.init 0xFF (body [0x01])) := by decide +kernel

/-- F-ACK -/
theorem test_decode_acknowledge : decode Params.vectors (.frame (frame [0x01, 0x00, 0x04] 0x6A)) =
    .ok (.acknowledge 0x00 (body [])) := by decide +kernel

/-- F-ERR4 -/
theorem test_decode_error : decode Params.vectors (.frame (frame [0x01, 0x00, 0x05, 0x04] 0x7E)) =
    .ok (.error 0x00 (body [0x04])) := by decide +kernel

/-- F-RST-02 -/
theorem test_decode_restart : decode Params.vectors (.frame (frame [0x01, 0x02, 0x06] 0xDD)) =
    .ok (.restart 0x02 (body [])) := by decide +kernel

/-- F-CFG-112233-02 -/
theorem test_decode_configure :
    decode Params.vectors (.frame (frame [0x01, 0x02, 0x07, 0x03, 0x11, 0x22, 0x33] 0xEC)) =
    .ok (.configure 0x02 (body [0x03, 0x11, 0x22, 0x33])) := by decide +kernel

/-- F-MET-03 -/
theorem test_decode_metrics : decode Params.vectors (.frame (frame [0x01, 0x03, 0x08] 0xDE)) =
    .ok (.metrics 0x03 (body [])) := by decide +kernel

/-- F-MR-AABB -/
theorem test_decode_metricsResponse :
    decode Params.vectors (.frame (frame [0x01, 0x00, 0x09, 0x02, 0xAA, 0xBB] 0x24)) =
    .ok (.metricsResponse 0x00 (body [0x02, 0xAA, 0xBB])) := by decide +kernel

/-- F-CO-01 -/
theorem test_decode_configureOptions : decode Params.vectors (.frame (frame [0x01, 0x01, 0x0A] 0x69)) =
    .ok (.configureOptions 0x01 (body [])) := by decide +kernel

/-- F-COR-5A -/
theorem test_decode_configureOptionsResponse :
    decode Params.vectors (.frame (frame [0x01, 0x00, 0x0B, 0x01, 0x5A] 0xC8)) =
    .ok (.configureOptionsResponse 0x00 (body [0x01, 0x5A])) := by decide +kernel

/-- F-T00-01 -/
theorem test_decode_unassigned00 : decode Params.vectors (.frame (frame [0x01, 0x01, 0x00] 0x06)) =
    .ok (.unassigned00 0x01 (body [])) := by decide +kernel

/-- F-T0C-03 -/
theorem test_decode_unassigned0C : decode Params.vectors (.frame (frame [0x01, 0x03, 0x0C] 0xB3)) =
    .ok (.unassigned0C 0b00 0x03 (body [])) := by decide +kernel

/-- The CRC byte of this frame and the next two is that of 40_framer_crc.md rule R170, computed outside Lean. -/
theorem test_decode_unassigned10 : decode Params.vectors (.frame (frame [0x01, 0x01, 0x1A] 0xDA)) =
    .ok (.unassigned10 0xA 0x01 (body [])) := by decide +kernel

theorem test_decode_unassigned20 : decode Params.vectors (.frame (frame [0x01, 0x01, 0x35] 0x60)) =
    .ok (.unassigned20 0x15 0x01 (body [])) := by decide +kernel

theorem test_decode_unassigned40 : decode Params.vectors (.frame (frame [0x01, 0x01, 0x6B] 0x13)) =
    .ok (.unassigned40 0x2B 0x01 (body [])) := by decide +kernel

/-- F-TFF-01 -/
theorem test_decode_unassigned80 : decode Params.vectors (.frame (frame [0x01, 0x01, 0xFF] 0x4E)) =
    .ok (.unassigned80 0x7F 0x01 (body [])) := by decide +kernel

/-! ### Decoding: command words (30_encoding.md rules R150..R152; 95_test_vectors.md section 10) -/

/-- C1 and C15 -/
theorem test_decode_cmdMetrics : decodeCommand 0x00000101 = .cmdMetrics 0x01 0x00 0x00 ∧
    decodeCommand 0xAB000101 = .cmdMetrics 0x01 0x00 0xAB := by decide

/-- C16 -/
theorem test_decode_cmdConfigure : decodeCommand 0x00030102 = .cmdConfigure 0x01 0x03 0x00 := by decide

/-- C23 -/
theorem test_decode_cmdConfigOptions : decodeCommand 0x00000103 = .cmdConfigOptions 0x01 0x00 0x00 := by decide

/-- C30 -/
theorem test_decode_cmdRestart : decodeCommand 0x0000FF04 = .cmdRestart 0xFF 0x00 0x00 := by decide

/-- C33 -/
theorem test_decode_cmdProbe : decodeCommand 0x00000205 = .cmdProbe 0x02 0x00 0x00 := by decide

/-- C39 -/
theorem test_decode_cmdResetRegistry : decodeCommand 0x00000006 = .cmdResetRegistry 0x00 0x00 0x00 := by decide

/-- C40 and rule R322 -/
theorem test_decode_reserved :
    decodeCommand 0x00000000 = .reserved00 0x00 0x00 0x00 ∧ decodeCommand 0x00000107 = .reserved07 0x01 0x00 0x00 ∧
    decodeCommand 0x0000000D = .reserved08 0b101 0x00 0x00 0x00 ∧
    decodeCommand 0x0000001A = .reserved10 0xA 0x00 0x00 0x00 ∧
    decodeCommand 0x00000035 = .reserved20 0x15 0x00 0x00 0x00 ∧
    decodeCommand 0x0000006B = .reserved40 0x2B 0x00 0x00 0x00 ∧
    decodeCommand 0x000000FF = .reserved80 0x7F 0x00 0x00 0x00 := by decide

/-! ### Decoding: the words of the opcode table, and what the step runs first -/

/-- A frame row gives the type byte, a command row the command word. -/
theorem test_table_words :
    decodeTableWord 8 0x04 = some (.acknowledge 0x00 (body [])) ∧
    decodeTableWord 8 0x10 = some (.unassigned10 0 0x00 (body [])) ∧
    decodeTableWord 32 0x00000006 = some (.cmdResetRegistry 0x00 0x00 0x00) := by decide +kernel

/-- A frame placed for the step is the one the step runs: the first byte of its receive buffer and its last byte. -/
theorem test_placed_frame_is_received :
    let s := State.reset.withFetchWord 8 0x04
    s.ctrl.framer.rxCount = 255 ∧ Memory.readBytes s.ctrl.framer.rxBuf 0 3 = [0x01, 0x00, 0x04] ∧
    s.inputs = [[.rxByte .controller 0x6A]] ∧ (nextOf (step s)).map (fun t => t.ctrl.framer.rxCount) = some 0 := by
  decide +kernel

/-- A command placed for the step is issued, started and completed in it (vectors C40, C45). -/
theorem test_placed_command_runs :
    (nextOf (step (State.reset.withFetchWord 32 0x00000007))).map (fun t => (t.ctrl.statusWord, t.ctrl.curCmd)) =
    some (0x00000602, 0x00000007) := by decide +kernel

/-! ### The framer operations (40_framer_crc.md; 95_test_vectors.md sections 2, 3, 4, 6) -/

/-- V-CRC-9, V-CRC-4 -/
theorem test_crc8 :
    resultAfter (exec (.crc8 [0x31, 0x32, 0x33, 0x34, 0x35, 0x36, 0x37, 0x38, 0x39]) State.reset) =
      some (.crc 0xF4) ∧
    resultAfter (exec (.crc8 [0x80]) State.reset) = some (.crc 0x89) := by decide

/-- N2, N9 -/
theorem test_encode :
    resultAfter (exec (.encode 0x00 (.initProbeResponse 0x00 0x5A)) State.reset) =
      some (.frame (frame [0x01, 0x00, 0x02] 0xB2)) ∧
    resultAfter (exec (.encode 0x01 (.configure [0x11, 0x22, 0x33])) State.reset) =
      some (.frame (frame [0x01, 0x01, 0x07, 0x03, 0x11, 0x22, 0x33] 0xEF)) := by decide +kernel

/-- N14, N15 -/
theorem test_encode_too_long :
    resultAfter (exec (.encode 0x01 (.configure (List.replicate 252 0x5A))) State.reset) = some (.formatError 253) ∧
    resultAfter (exec (.encode 0x00 (.metricsResponse (List.replicate 300 0x00))) State.reset) =
      some (.formatError 301) := by decide +kernel

/-- D5, D7 -/
theorem test_decode_wrong_crc_and_version :
    resultAfter (exec (.decode (frame [0x01, 0xFF, 0x03, 0x01] 0x64)) State.reset) =
      some (.decodeError (.checksumMismatch 0x64)) ∧
    resultAfter (exec (.decode (frame [0x02, 0xFF, 0x03, 0x01] 0x65)) State.reset) =
      some (.decodeError (.versionMismatch 0x02)) := by decide +kernel

/-- D8, D4 -/
theorem test_decode_unassigned_and_short :
    resultAfter (exec (.decode (frame [0x01, 0x01, 0x0C] 0xB1)) State.reset) =
      some (.decodeError (.unknownType 0x01 0x0C)) ∧
    resultAfter (exec (.decode (frame [0x01, 0xFF, 0x03, 0x01] 0x65).dropLast) State.reset) =
      some (.decodeError (.lengthMismatch 255)) := by decide +kernel

/-- Q6, Q12 -/
theorem test_parse :
    resultAfter (exec (.parse .initProbeResponse (body [0x00, 0x5A])) State.reset) =
      some (.fields (.initProbeResponse 0x00 0x00)) ∧
    resultAfter (exec (.parse .metricsResponse (body [0x04, 0x01, 0x02, 0x03, 0x04])) State.reset) =
      some (.fields (.metricsResponse [0x01, 0x02, 0x03, 0x04])) := by decide +kernel

/-- Q4, Q8, Q13 -/
theorem test_parse_malformed :
    parse .init (0x01 :: List.replicate 250 0x00 ++ [0x01]) = none ∧
    parse .initProbeResponse (body [0x01, 0x00]) = none ∧ parse .initProbeResponse (body [0x01, 0xFF]) = none ∧
    parse .metricsResponse (body [0xFC]) = none := by decide +kernel

/-! ### The packet types at a board (95_test_vectors.md section 7) -/

/-- X2 -/
theorem test_init_registers :
    (boardAfter (exec (.init 0xFF (body [0x01])) (atBoard selected))).map
      (fun e => (e.extId, e.est, e.readyOut, e.events, e.framer.outbox)) =
    some (0x01, .registered, false, 0x1, some fAck) := by decide +kernel

/-- X41 -/
theorem test_init_to_own_id :
    (boardAfter (exec (.init 0x01 (body [0x05])) (atBoard reg1))).map
      (fun e => (e.extId, e.events, e.framer.outbox)) = some (0x01, 0x8, some (fErr 3)) := by decide +kernel

/-- X14 -/
theorem test_initProbe_answered :
    (boardAfter (exec (.initProbe 0xFF (body [])) (atBoard reg1Sel))).map (fun e => (e.events, e.framer.outbox)) =
    some (0x0, some (frame [0x01, 0x00, 0x02, 0x01, 0x01] 0x09)) := by decide +kernel

/-- X7, X9 -/
theorem test_initProbe_selected :
    (boardAfter (exec (.initProbe 0xFF (body [])) (atBoard selected))).map (fun e => e.framer.outbox) =
      some (some (frame [0x01, 0x00, 0x02] 0xB2)) ∧
    (boardAfter (exec (.initProbe 0xFF badBody) (atBoard selected))) = some selected := by decide +kernel

/-- X34, X35 -/
theorem test_restart :
    (boardAfter (exec (.restart 0x01 (body [])) (atBoard reg1))).map
      (fun e => (e.est, e.extId, e.readyOut, e.events, e.framer.outbox)) =
      some (.uninitialized, 0x00, true, 0x4, none) ∧
    (boardAfter (exec (.restart 0xFF (body [])) (atBoard reg1Sel))).map (fun e => (e.est, e.extId)) =
      some (.selected, 0x00) := ⟨by decide +kernel, by decide +kernel⟩

/-- X39, X40 -/
theorem test_restart_malformed :
    (boardAfter (exec (.restart 0x01 badBody) (atBoard reg1))).map (fun e => (e.est, e.events, e.framer.outbox)) =
      some (.registered, 0x8, some (fErr 2)) ∧
    boardAfter (exec (.restart 0xFF badBody) (atBoard reg1)) = some reg1 := by decide +kernel

/-- X24 -/
theorem test_configure_stores :
    (boardAfter (exec (.configure 0x01 (body [0x03, 0x11, 0x22, 0x33])) (atBoard reg1))).map
      (fun e => (e.wordAt 0x300, e.configLen, e.events, e.framer.outbox)) =
    some (0x00332211, 0x03, 0x2, some fAck) := by decide +kernel

/-- X26 -/
theorem test_configure_too_long :
    (boardAfter (exec (.configure 0x01 (body [0xFC])) (atBoard { reg1 with configLen := 0x03 }))).map
      (fun e => (e.configLen, e.events, e.framer.outbox)) = some (0x03, 0x8, some (fErr 2)) := by decide +kernel

/-- X18 -/
theorem test_metrics_answered :
    (boardAfter (exec (.metrics 0x01 (body []))
      (atBoard { reg1 with metricsLen := 0x02, mem := [(0x100, 0xAA), (0x101, 0xBB)] }))).map
      (fun e => (e.events, e.framer.outbox)) =
    some (0x0, some (frame [0x01, 0x00, 0x09, 0x02, 0xAA, 0xBB] 0x24)) := by decide +kernel

/-- X21, X23 -/
theorem test_metrics_too_long :
    (boardAfter (exec (.metrics 0x01 (body [])) (atBoard { reg1 with metricsLen := 0xFC }))).map
      (fun e => (e.events, e.framer.outbox)) = some (0x8, some (fErr 4)) ∧
    (boardAfter (exec (.metrics 0x01 badBody) (atBoard { reg1 with metricsLen := 0xFC }))).map
      (fun e => e.framer.outbox) = some (some (fErr 2)) := by decide +kernel

/-- X31 -/
theorem test_configureOptions_answered :
    (boardAfter (exec (.configureOptions 0x01 (body []))
      (atBoard { reg1 with optionsLen := 0x01, mem := [(0x200, 0x5A)] }))).map
      (fun e => (e.events, e.framer.outbox)) =
    some (0x0, some (frame [0x01, 0x00, 0x0B, 0x01, 0x5A] 0xC8)) := by decide +kernel

/-- X42, and rules R223 and R229 for the other response types at a board. -/
theorem test_responses_at_board :
    (boardAfter (exec (.acknowledge 0x02 (body [])) (atBoard (board .registered 0x02 false)))).map
      (fun e => (e.est, e.events, e.framer.outbox)) = some (.registered, 0x8, some (fErr 3)) ∧
    (boardAfter (exec (.metricsResponse 0x01 (body [])) (atBoard reg1))).map (fun e => e.framer.outbox) =
      some (some (fErr 3)) ∧
    boardAfter (exec (.configureOptionsResponse 0xFF (body [])) (atBoard reg1)) = some reg1 ∧
    boardAfter (exec (.initProbeResponse 0x02 (body [])) (atBoard reg1)) = some reg1 := by decide +kernel

/-- X51 -/
theorem test_unassigned_answered :
    (boardAfter (exec (.unassigned00 0x01 (body [])) (atBoard reg1))).map (fun e => (e.events, e.framer.outbox)) =
      some (0x8, some (fErr 1)) ∧
    (boardAfter (exec (.unassigned80 0x7F 0x01 (body [])) (atBoard reg1))).map (fun e => e.framer.outbox) =
      some (some (fErr 1)) := by decide +kernel

/-- X48, X49 -/
theorem test_unassigned_silent :
    boardAfter (exec (.unassigned0C 0 0xFF (body [])) (atBoard reg1)) = some reg1 ∧
    boardAfter (exec (.unassigned10 0 0x02 (body [])) (atBoard reg1)) = some reg1 ∧
    boardAfter (exec (.unassigned20 0 0xFF (body [])) (atBoard reg1)) = some reg1 ∧
    boardAfter (exec (.unassigned40 0 0x00 (body [])) (atBoard selected)) = some selected := by decide +kernel

/-! ### The packet types at the Controller (95_test_vectors.md sections 9, 10) -/

/-- G7 -/
theorem test_acknowledge_registers :
    (ctrlAfter (exec (.acknowledge 0x00 (body [])) (atCtrl registering))).map
      (fun c => (c.record 0x01, c.selOut, c.regEvent.word, c.statusWord, c.timerArmed)) =
    some ({ status := .registered, last := 5 }, 0, 0x00010001, 0x00000004, false) := by decide +kernel

/-- G8 -/
theorem test_registration_ignores :
    (ctrlAfter (exec (.error 0x00 (body [0x02])) (atCtrl registering))) = some registering ∧
    (ctrlAfter (exec (.acknowledge 0x01 (body [])) (atCtrl registering))) = some registering ∧
    (ctrlAfter (exec (.initProbeResponse 0x00 (body [])) (atCtrl registering))) = some registering := by decide +kernel

/-- C1 -/
theorem test_metricsResponse_completes :
    (ctrlAfter (exec (.metricsResponse 0x00 (body [0x02, 0xAA, 0xBB])) (atCtrl (waiting 0x00000101 0x09)))).map
      (fun c => (c.statusWord, c.wordAt 0x200, c.record 0x01)) =
    some (0x00020002, 0x0000BBAA, { status := .registered, last := 0x100 }) := by decide +kernel

/-- C16 -/
theorem test_acknowledge_completes :
    (ctrlAfter (exec (.acknowledge 0x00 (body [])) (atCtrl (waiting 0x00030102 0x04)))).map
      (fun c => (c.statusWord, (c.record 0x01).last)) = some (0x00000002, 0x100) := by decide +kernel

/-- C23 -/
theorem test_configureOptionsResponse_completes :
    (ctrlAfter (exec (.configureOptionsResponse 0x00 (body [0x01, 0x5A])) (atCtrl (waiting 0x00000103 0x0B)))).map
      (fun c => (c.statusWord, c.wordAt 0x200)) = some (0x00010002, 0x0000005A) := by decide +kernel

/-- C33, C34 -/
theorem test_initProbeResponse_completes :
    (ctrlAfter (exec (.initProbeResponse 0x00 (body [0x01, 0x01]))
      (atCtrl { waiting 0x00000205 0x02 with curSlot := 2, selOut := 0b0100 }))).map
      (fun c => (c.statusWord, c.wordAt 0x200, c.selOut)) = some (0x01010002, 0x00000001, 0) ∧
    (ctrlAfter (exec (.initProbeResponse 0x00 (body []))
      (atCtrl { waiting 0x00000005 0x02 with selOut := 0b0001 }))).map
      (fun c => (c.statusWord, c.selOut)) = some (0x00000002, 0) := by decide +kernel

/-- C7, C38 -/
theorem test_error_rejects :
    (ctrlAfter (exec (.error 0x00 (body [0x04])) (atCtrl (waiting 0x00000101 0x09)))).map
      (fun c => (c.statusWord, c.record 0x01)) = some (0x04000102, { status := .registered, last := 0 }) ∧
    (ctrlAfter (exec (.error 0x00 (body [0x02]))
      (atCtrl { waiting 0x00000005 0x02 with selOut := 0b0001 }))).map
      (fun c => (c.statusWord, c.selOut)) = some (0x02000102, 0) := by decide +kernel

/-! ### The host commands (95_test_vectors.md section 10); STATUS, and the frame sent -/

/-- C1, C4, C3 -/
theorem test_cmdMetrics :
    ran 0x00000101 ctrl = some (0x00000001, some (frame [0x01, 0x01, 0x08] 0xDC)) ∧
    ran 0x00000501 ctrl = some (0x00000302, none) ∧ ran 0x0000FF01 ctrl = some (0x00000702, none) := by decide +kernel

/-- C16 -/
theorem test_cmdConfigure :
    ran 0x00030102 { ctrl with mem := [(0x100, 0x11), (0x101, 0x22), (0x102, 0x33)] } =
    some (0x00000001, some (frame [0x01, 0x01, 0x07, 0x03, 0x11, 0x22, 0x33] 0xEF)) := by decide +kernel

/-- C19, C20 -/
theorem test_cmdConfigure_errors :
    ran 0x00FC0102 ctrl = some (0x00000502, none) ∧ ran 0x00FC0502 ctrl = some (0x00000302, none) := by decide +kernel

/-- C23, C5 -/
theorem test_cmdConfigOptions :
    ran 0x00000103 ctrl = some (0x00000001, some (frame [0x01, 0x01, 0x0A] 0x69)) ∧
    ran 0x00000103 (ctrl.setStatus 0x01 .unresponsive) = some (0x00000402, none) := by decide +kernel

/-- C30, C28, C29 -/
theorem test_cmdRestart :
    ran 0x0000FF04 ctrl = some (0x00000001, some (frame [0x01, 0xFF, 0x06] 0x20)) ∧
    ran 0x00000004 ctrl = some (0x00000702, none) ∧ ran 0x00000504 ctrl = some (0x00000302, none) := by decide +kernel

/-- C30: the completion on `TxDone`. -/
theorem test_cmdRestart_completes :
    let c := Controller.txDone
      { (ctrl.setStatus 0x02 .unresponsive).setStatus 0x03 .unregistered with
        cst := .cmdTx, curCmd := 0x0000FF04, curId := 0xFF }
    (c.statusWord, (c.record 0x01).status, (c.record 0x02).status, (c.record 0x03).status, (c.record 0x04).status) =
    (0x00000002, .unregistered, .unregistered, .unregistered, .absent) := by decide +kernel

/-- C33, C36 -/
theorem test_cmdProbe :
    ran 0x00000205 ctrl = some (0x00000001, some (frame [0x01, 0xFF, 0x01] 0x21)) ∧
    (ctrlAfter (exec (.cmdProbe 0x02 0x00 0x00) (atCtrl ctrl))).map (fun c => c.selOut) = some 0b0100 ∧
    ran 0x00000405 ctrl = some (0x00000702, none) := by decide +kernel

/-- C39 -/
theorem test_cmdResetRegistry :
    (ctrlAfter (exec (.cmdResetRegistry 0x00 0x00 0x00) (atCtrl ctrl))).map
      (fun c => (c.statusWord, c.nextId, (c.record 0x01).status)) = some (0x00000002, 0x01, .absent) := by decide +kernel

/-- C40 -/
theorem test_reserved :
    ran 0x00000000 ctrl = some (0x00000602, none) ∧ ran 0x00000007 ctrl = some (0x00000602, none) ∧
    ran 0x00000008 ctrl = some (0x00000602, none) ∧ ran 0x00000010 ctrl = some (0x00000602, none) ∧
    ran 0x00000020 ctrl = some (0x00000602, none) ∧ ran 0x00000040 ctrl = some (0x00000602, none) ∧
    ran 0x000000FF ctrl = some (0x00000602, none) := by refine ⟨?_, ?_, ?_, ?_, ?_, ?_, ?_⟩ <;> decide +kernel

/-! ### Steps: ticks, lines, host accesses, reset -/

/-- The bus with READY of slot `k` high at the Controller. -/
def readyAt (k : Nat) (s : State) : State :=
  s.mapSlot k (fun sl => { sl with ready := { level := true, inFlight := [] } })

/-- V-LN-1, with slot 2 rising; the registration starts at the end of the step (G3). -/
theorem test_tick_starts_registration :
    let s := { State.reset.mapSlot 2 (fun sl => { sl with ready := { level := true, inFlight := [] } }) with
      inputs := [[.tick .controller]] }
    (nextOf (step s)).map (fun t => (t.ctrl.now, t.ctrl.curSlot, t.ctrl.cst, t.ctrl.wordAt 0x808, t.ctrl.pending)) =
      some (1, 2, .regTx, 0x00000002, 0) ∧
    (nextOf (step s)).map (fun t => (t.wire (.slot 0), (t.slots[2]?).map (fun sl => sl.sel.inFlight))) =
      some ([{ sender := .controller, bytes := fInit1, carriage := .intact, ended := false }], some [true]) := by
  decide +kernel

/-- 60_exceptions.md rule R385: the strobe of a bus with one board, in slot 2, ticks the Controller and that board. -/
theorem test_strobe :
    let slots := State.reset.slots.modify 0 (fun sl => { sl with board := none })
    let s := { State.reset with
      slots := (slots.modify 1 (fun sl => { sl with board := none })).modify 3 (fun sl => { sl with board := none })
      inputs := [[.strobe, .rxByte (.slot 2) 0x55]] }
    (match step s with
      | .next t => (match step t with | .next u => u.inputs | _ => [])
      | _ => []) = [[.tick .controller, .tick (.slot 2)]] := by decide +kernel

/-- X52, and the tick that samples no edge. -/
theorem test_board_tick :
    (Extension.tick (board .uninitialized 0 false) true).est = .selected ∧
    (Extension.tick (board .uninitialized 0 false) false) = board .uninitialized 0 false := by decide +kernel

/-- G12, G13 -/
theorem test_registration_exhausts :
    let c := Controller.timeout { registering with attempts := 2, regEvt := true }
    (c.cst, c.selOut, (c.record 0x01).status, c.regEvent.word, c.statusWord) =
    (.idle, 0, .unresponsive, 0x00010002, 0x0000000C) := by decide +kernel

/-- G5 -/
theorem test_ids_exhausted :
    let c := Controller.startRegistration { ctrl with nextId := 0xFF, pending := 0b0100 } 2
    (c.cst, c.selOut, c.pending, c.regEvent.word, c.statusWord) = (.idle, 0, 0, 0x00000203, 0x00000004) := by
  decide +kernel

/-- T8, at the last two of its ticks. -/
theorem test_gap :
    let fr := { Framer.reset [] with rxCount := 10, gapCount := 8 }
    (fr.gapTick 10).1.gapCount = 9 ∧ ((fr.gapTick 10).1.gapTick 10).2 = some 10 := by decide

/-- M1, M5, M13 -/
theorem test_controller_interface :
    (nextOf (step { State.reset with inputs := [[.memRead .controller 0x00C 2]] })).map (fun t => t.reply) =
      some { error := true, data := 0 } ∧
    State.reset.ctrl.wordAt 0x000 = 0x43020401 ∧
    (Controller.applyWrite { State.reset.ctrl with done := true, regEvt := true, cmdDropped := true } 0x00C
      0x00000006).wordAt 0x00C = 0x00000010 := by decide +kernel

/-- M6, M17, M18 -/
theorem test_board_interface :
    reg1.wordAt 0x000 = 0x45000001 ∧ (reg1.applyWrite 0x010 0x12345678).wordAt 0x010 = 0x00000078 ∧
    (Extension.applyWrite { reg1 with events := 0xB } 0x008 0x00000003).events = 0x8 := by decide +kernel

/-- Z3, Z4: STATE after a board's reset. -/
theorem test_board_reset :
    (Extension.reset Params.vectors false [] []).stateWord = 0x00010000 ∧
    (Extension.reset Params.vectors true [] []).stateWord = 0x00030001 := by decide

/-- 70_reset_and_hazards.md rule R401: a slot that was selected and is selected again by the reset's `arbitrate()` sees SEL
low in between. -/
theorem test_controller_reset_releases_sel :
    (nextOf (step { readyAt 0 (atCtrl registering) with inputs := [[.reset .controller]] })).map
      (fun t => (t.ctrl.cst, t.ctrl.selOut, (t.slots[0]?).map (fun sl => sl.sel.inFlight))) =
    some (.regTx, 1, some [false, true]) := by decide +kernel

/-- A board whose ACKNOWLEDGE is on its way to the Controller, as the bytes `bytes`. -/
def answering (bytes : List Byte) : State :=
  { State.reset.setBoard 0 { reg1 with framer := { (Framer.reset []).send fAck with outbox := none } } with
    ctrlWire := [{ sender := .slot 0, bytes := bytes, carriage := .intact, ended := false }] }

/-- 20_memory.md rule R118 (b): a frame that is cut is followed by T_GAP ticks in which no byte comes in. -/
theorem test_cut_then_silence :
    let s := { answering fAck with inputs := [[.cut .controller], [.rxByte .controller 0x55]] }
    ((nextOf (step s)).map (fun t => t.ctrlWire.map (fun u => (u.bytes, u.carriage))) = some [([], .cut 10)]) ∧
    ((nextOf (step s)).bind (fun t => nextOf (step t))).map (fun t => t.ctrl.framer.rxCount) = some 0 := by
  decide +kernel

/-- 41_extension_fsm.md rule R234: on `TxError` the response is lost, here before its last byte, and silence follows. -/
theorem test_txError_loses_the_frame :
    (nextOf (step { answering [0x6A] with inputs := [[.txError (.slot 0)]] })).map
      (fun t => (t.ctrlWire.map (fun u => u.carriage), (t.board 0).map (fun e => e.framer.txBusy))) =
    some ([.cut 10], some false) := by decide +kernel

/-- 95_test_vectors.md program P1, rows 3 and 4: the board answers F-INIT1 before the Controller's `TxDone`, and its F-ACK
is on its way intact (20_memory.md rules R116, R118 (a)); the Controller then takes its `TxDone`. -/
theorem test_reply_before_TxDone_is_intact :
    let e := { selected with framer := { Framer.reset (Memory.writeBytes [] 0 fInit1.dropLast) with rxCount := 255 } }
    let c := { registering with cst := .regTx, timerArmed := false, framer := { Framer.reset [] with txBusy := true } }
    let s := { (atCtrl c).setBoard 0 e with
      onLine := [.controller], inputs := [[.deliver (.slot 0)], [.txDone .controller]] }.setWire (.slot 0)
        [{ sender := .controller, bytes := [0x65], carriage := .intact, ended := false }]
    (nextOf (step s)).map (fun t => (t.ctrlWire.map (fun u => (u.bytes, u.carriage)), t.wire (.slot 0), t.onLine)) =
      some ([(fAck, .intact)], [], [.slot 0]) ∧
    ((nextOf (step s)).bind (fun t => nextOf (step t))).map (fun t => (t.ctrl.cst, t.onLine)) =
      some (.regWait, [.slot 0]) := by decide +kernel

/-- 60_exceptions.md rule R382: an inserted board drives READY, and a removed one releases it. -/
theorem test_attach_and_detach :
    let empty := State.reset.mapSlot 1 (fun sl => { sl with board := none, ready := { level := false, inFlight := [] } })
    let s := { empty with inputs := [[.attach 1 Params.vectors], [.detach 1]] }
    (nextOf (step s)).map (fun t => ((t.board 1).map (·.readyOut), (t.slots[1]?).map (·.ready.inFlight))) =
      some (some true, some [true]) ∧
    ((nextOf (step s)).bind (fun t => nextOf (step t))).map (fun t => (t.board 1, (t.slots[1]?).map (·.ready.inFlight))) =
      some (none, some [true, false]) := by decide +kernel

/-- 60_exceptions.md rule R362 -/
theorem test_reason_codes :
    (DecodeError.lengthMismatch 10).code = 1 ∧ (DecodeError.versionMismatch 0x02).code = 2 ∧
    (DecodeError.checksumMismatch 0x64).code = 3 ∧ (DecodeError.unknownType 0x01 0x0C).code = 4 ∧
    (DecodeError.unknownType 0x01 0x0C).info = .inr (0x01, 0x0C) := by decide

/-- C41, C42 -/
theorem test_command_issue :
    (ctrl.applyWrite 0x008 0x00000101).busy = true ∧
    ((waiting 0x00000101 0x09).applyWrite 0x008 0x00000201).cmdDropped = true ∧
    ((waiting 0x00000101 0x09).applyWrite 0x008 0x00000201).cmdValid = false := by decide +kernel

/-! ### Witnesses: states and operands that meet the hypotheses of the statements, clause by clause -/

/-- The bus after reset with the board `e` in slot 0 and the event `ev` next. -/
def boardEvent (e : Extension) (ev : Event) : State := { State.reset.setBoard 0 e with inputs := [[ev]] }

/-- The bus after reset with the Controller `c` and the event `ev` next. -/
def ctrlEvent (c : Controller) (ev : Event) : State := { State.reset with ctrl := c, inputs := [[ev]] }

/-- A framer that holds `n` bytes of a frame, all zero. -/
def holding (n : BitVec 8) : Framer := { Framer.reset [] with rxCount := n }

/-- The blob body with `n` bytes 0x5A. -/
def blobBody (n : Nat) : List Byte :=
  BitVec.ofNat 8 n :: List.replicate n 0x5A ++ List.replicate (251 - n) 0x00

theorem witness_DecodeOfEncode :
    ((Instr.configure 0x01 (body [0x03])).wellFormed = true ∧ (Instr.configure 0x01 (body [0x03])).isFramerOp = false) ∧
    ((Instr.reserved80 0x7F 0x01 0x02 0x03).wellFormed = true ∧
      (Instr.reserved80 0x7F 0x01 0x02 0x03).isFramerOp = false) := by decide +kernel

theorem witness_EncodeOfDecode :
    fAck.length ≤ 256 ∧ decode Params.vectors (.frame fAck) = .ok (.acknowledge 0x00 (body [])) := by decide +kernel

theorem witness_PacketRoundTrip :
    (Payload.init 0xFE).wellFormed = true ∧ (serialize (.init 0xFE)).length ≤ 252 ∧
    (Payload.configure (List.replicate 251 0x5A)).wellFormed = true ∧
    (serialize (.configure (List.replicate 251 0x5A))).length ≤ 252 := by decide +kernel

theorem witness_SingleBitErrorDetected :
    Params.vectors.crcPoly = 0x07 ∧ Params.vectors.crcInit = 0x00 ∧ Params.vectors.crcXorout = 0x00 ∧
    encodePacket Params.vectors 0xFF (.init 0x01) = .ok fInit1 ∧ 0 < 256 ∧ 255 < 256 ∧ 7 < 8 := by decide +kernel

theorem witness_CrcResidue :
    (Params.vectors.crcXorout = 0x00 ∧ fAck.length = 256 ∧ fAck.getD 255 0 = crc8 Params.vectors (fAck.take 255)) ∧
    (Params.vectors.crcPoly = 0x07 ∧ Params.vectors.crcInit = 0x00 ∧ Params.vectors.protocolVersion ≠ 0x00) ∧
    ({ Params.vectors with protocolVersion := 0x00 }.protocolVersion = 0x00) := by decide +kernel

theorem witness_Crc8Result :
    State.reset.params State.reset.active = some Params.vectors ∧
    (atBoard reg1).params (atBoard reg1).active = some Params.vectors := by decide +kernel

theorem witness_EncodeResult :
    State.reset.params State.reset.active = some Params.vectors ∧
    252 < (serialize (.configure (List.replicate 252 0x5A))).length ∧
    (serialize (.configure (List.replicate 251 0x5A))).length ≤ 252 := by decide +kernel

theorem witness_DecodeResult :
    State.reset.params State.reset.active = some Params.vectors ∧ fAck.length ≤ 256 ∧ fAck.dropLast.length ≤ 256 := by
  decide +kernel

/-- A body with fields, and one without: an ACKNOWLEDGE whose padding is not zero. -/
theorem witness_ParseResult :
    (State.reset.params State.reset.active = some Params.vectors ∧ (body [0x00, 0x5A]).length = 252 ∧
      badBody.length = 252) ∧
    fitsBody .initProbeResponse (body [0x00, 0x5A]) (.initProbeResponse 0x00 0x00) ∧
    fitsBody .configure (blobBody 251) (.configure (List.replicate 251 0x5A)) ∧
    ∀ f, ¬fitsBody .acknowledge badBody f := by
  refine ⟨by decide +kernel, ⟨rfl, by decide, .inr ⟨rfl, 0x5A, by decide +kernel⟩⟩,
    ⟨rfl, by decide +kernel, .inl (by decide +kernel)⟩, ?_⟩
  rintro f ⟨ht, -, h | ⟨rfl, -⟩⟩
  · cases f <;> first | exact absurd h (by decide +kernel) | cases ht
  · cases ht

/-- A transmission of the Controller that is in progress, with the given bytes left. -/
def sent (bytes : List Byte) : Transmission :=
  { sender := .controller, bytes := bytes, carriage := .intact, ended := false }

/-- A framer that transmits. -/
def transmitting : Framer := (holding 0).send fAck

/-- A board that transmits, its frame already taken over by the bus. -/
def sendingBoard : Extension := { reg1 with framer := { transmitting with outbox := none } }

/-- The four ways a byte comes in: between frames, while transmissions overlap, as sent, and changed. -/
theorem witness_brings :
    (∃ s', (ctrlEvent ctrl (.rxByte .controller 0x55)).brings .controller 0x55 (.rxByte .controller 0x55) s') ∧
    (∃ s', ((ctrlEvent ctrl (.rxByte (.slot 3) 0x55)).setWire (.slot 3) [{ sent [] with carriage := .garbled }]).brings
      (.slot 3) 0x55 (.rxByte (.slot 3) 0x55) s') ∧
    (∃ s', ((ctrlEvent ctrl (.deliver (.slot 3))).setWire (.slot 3) [sent [0x01, 0x02]]).brings (.slot 3)
      0x01 (.deliver (.slot 3)) s' ∧ s'.wire (.slot 3) = [sent [0x02]]) ∧
    (∃ s', ((ctrlEvent ctrl (.corrupt (.slot 3) 0x03)).setWire (.slot 3) [sent [0x01]]).brings (.slot 3)
      0x03 (.corrupt (.slot 3) 0x03) s' ∧ s'.wire (.slot 3) = []) :=
  ⟨⟨_, .noise rfl⟩, ⟨_, .overlapped rfl rfl⟩,
    ⟨_, .next (t := sent [0x01, 0x02]) (w := []) rfl rfl (by decide), by decide +kernel⟩,
    ⟨_, .changed (t := sent [0x01]) (w := []) rfl rfl (by decide), by decide +kernel⟩⟩

/-- Clause by clause; the byte of the first one comes in between frames. -/
theorem witness_StepRunsInstruction :
    (let s := ctrlEvent { State.reset.ctrl with framer := { Framer.reset (Memory.writeBytes [] 0 fAck.dropLast) with
        rxCount := 255 } } (.rxByte .controller 0x6A);
      s.inputs = [.rxByte .controller 0x6A] :: [] ∧ s.wire .controller = [] ∧
      s.framer .controller = some s.ctrl.framer ∧
      s.params .controller = some Params.vectors ∧ s.ctrl.framer.txBusy = false ∧ s.ctrl.framer.rxCount = 255 ∧
      decode Params.vectors (.frame (Memory.readBytes (Memory.write s.ctrl.framer.rxBuf 255 0x6A) 0 256)) =
        .ok (.acknowledge 0x00 (body [])) ∧
      decode Params.vectors (.frame (Memory.readBytes (Memory.write s.ctrl.framer.rxBuf 255 0x6B) 0 256)) =
        .error (.checksumMismatch 0x6B)) ∧
    (let c := { ctrl with cmdValid := true, cmdLatched := 0x00000101 };
      c.cst = .idle ∧ c.lowestPending = none ∧ c.cmdValid = true) ∧
    (let s := ctrlEvent ctrl (.memWrite .controller 0x008 4 0x00000101);
      s.inputs = [.memWrite .controller 0x008 4 0x00000101] :: [] ∧ s.ctrl.busy = false) ∧
    (ctrlEvent ctrl (.framer (.slot 0) (.crc8 []))).inputs = [.framer (.slot 0) (.crc8 [])] :: [] := by
  refine ⟨?_, ?_, ?_, ?_⟩ <;> decide +kernel

/-- Ticks and the ends of a transmission. -/
theorem witness_StepRunsInstruction_events :
    ((ctrlEvent ctrl (.tick .controller)).inputs = [.tick .controller] :: [] ∧
      (boardEvent reg1 (.tick (.slot 0))).inputs = [.tick (.slot 0)] :: [] ∧
      (boardEvent reg1 (.tick (.slot 0))).board 0 = some reg1 ∧
      (ctrlEvent ctrl .strobe).inputs = [.strobe] :: []) ∧
    (let s := ctrlEvent { ctrl with cst := .cmdTx, framer := transmitting } (.txDone .controller);
      s.inputs = [.txDone .controller] :: [] ∧ s.busy .controller = true) ∧
    (let s := ctrlEvent { ctrl with cst := .cmdTx, framer := transmitting } (.txError .controller);
      s.inputs = [.txError .controller] :: [] ∧ s.busy .controller = true) ∧
    (let s := boardEvent sendingBoard (.txDone (.slot 0));
      s.inputs = [.txDone (.slot 0)] :: [] ∧ s.board 0 = some sendingBoard ∧ sendingBoard.framer.txBusy = true) ∧
    (let s := boardEvent sendingBoard (.txError (.slot 0));
      s.inputs = [.txError (.slot 0)] :: [] ∧ s.board 0 = some sendingBoard) ∧
    (ctrlEvent ctrl (.txDone .controller)).busy .controller = false := by
  refine ⟨?_, ?_, ?_, ?_, ?_, ?_⟩ <;> decide +kernel

/-- Simultaneous events, an instant without events, and none waiting. -/
theorem witness_StepRunsInstruction_order :
    (let pre : List Event := [.tick .controller];
      let post : List Event := [.rxByte .controller 0x55, .memRead .controller 0x00C 4];
      let ev : Event := .rxByte .controller 0x01;
      pre ++ post ≠ [] ∧ (∀ e ∈ pre, eventRank ev < eventRank e) ∧ ∀ e ∈ post, eventRank ev ≤ eventRank e) ∧
    { State.reset with inputs := [[]] }.inputs = [] :: [] ∧ State.reset.inputs = [] := by decide

theorem witness_ReceiverDelivers :
    (holding 0).txBusy = false ∧ (holding 0).rxCount = 0 ∧ fAck.length ≤ 256 ∧
    (fAck.dropLast.length < 256 ∧ fAck.dropLast ≠ []) ∧ fAck.length = 256 := by decide +kernel

theorem witness_ByteFillsBuffer :
    (let e := { reg1 with framer := holding 254 };
      let s := boardEvent e (.rxByte (.slot 0) 0x01);
      s.inputs = [.rxByte (.slot 0) 0x01] :: [] ∧ s.wire (.slot 0) = [] ∧ s.board 0 = some e ∧
      e.framer.txBusy = false ∧ e.framer.outbox = none ∧ e.framer.rxCount ≠ 255) ∧
    (let s := ctrlEvent registering (.rxByte .controller 0x01);
      s.inputs = [.rxByte .controller 0x01] :: [] ∧ s.wire .controller = [] ∧ s.ctrl.cst ≠ .idle ∧
      s.ctrl.framer.txBusy = false ∧ s.ctrl.framer.outbox = none ∧ s.ctrl.framer.rxCount ≠ 255) ∧
    (let s := ctrlEvent ctrl (.rxByte .controller 0x01);
      s.inputs = [.rxByte .controller 0x01] :: [] ∧ s.wire .controller = [] ∧ s.ctrl.framer.txBusy = false ∧
      s.ctrl.framer.outbox = none ∧ s.ctrl.framer.rxCount ≠ 255 ∧ s.ctrl.cst = .idle ∧
      s.ctrl.lowestPending = none ∧ s.ctrl.cmdValid = false) := by refine ⟨?_, ?_, ?_⟩ <;> decide +kernel

theorem witness_ByteWhileSending :
    let e := { reg1 with framer := { holding 37 with txBusy := true } }
    let s := boardEvent e (.rxByte (.slot 0) 0x01)
    s.inputs = [.rxByte (.slot 0) 0x01] :: [] ∧ s.framer (.slot 0) = some e.framer ∧ e.framer.txBusy = true := by
  decide +kernel

theorem witness_GapTimeout :
    (10#16 ≠ 0 ∧ 1#16 ≠ 0) ∧ (holding 0).rxCount = 0 ∧ ((holding 255).rxCount ≠ 0 ∧ (holding 255).gapCount = 0) ∧
    9 < (10#16).toNat ∧ 0 < (1#16).toNat := by decide

/-- A frame that goes out with no other transmission on the line, and one with the Controller's on it. -/
theorem witness_TransmitReachesOthers :
    (let s := atBoard { reg1 with framer := transmitting };
      s.framer (.slot 0) = some transmitting ∧ transmitting.outbox = some fAck ∧
      (∀ m, m ∈ s.onLine → m = .slot 0) ∧ Node.controller ≠ .slot 0 ∧ (s.framer .controller).isSome = true ∧
      Node.slot 3 ≠ .slot 0 ∧ (s.framer (.slot 3)).isSome = true) ∧
    (let s := { atBoard { reg1 with framer := transmitting } with onLine := [.controller] };
      s.framer (.slot 0) = some transmitting ∧ Node.controller ∈ s.onLine ∧ Node.controller ≠ .slot 0) := by
  refine ⟨⟨by decide +kernel, by decide +kernel, fun m h => absurd h (by rintro ⟨⟩), ?_⟩, ?_⟩ <;> decide +kernel

/-- A node that has nothing to send, one without a core, and a slot to look at. -/
theorem witness_TransmitReachesOthers_idle :
    State.reset.framer .controller = some (Framer.mk [] 0 0 false none) ∧ State.reset.framer (.slot 4) = none ∧
    State.reset.slots[3]? = some (Slot.reset Params.vectors) := by decide +kernel

/-- The end of the noise of an overlap, and where none comes in. -/
theorem witness_TransmitReachesOthers_noiseEnds :
    let s := ctrlEvent ctrl (.noiseEnds (.slot 3))
    let t := { sent [0x01] with carriage := .garbled }
    s.inputs = [.noiseEnds (.slot 3)] :: [] ∧ (s.setWire (.slot 3) [t]).wire (.slot 3) = t :: [] ∧
    (s.setWire (.slot 3) [t]).inputs = s.inputs ∧ t.carriage = .garbled ∧ s.wire (.slot 3) = [] := by decide +kernel

/-- A frame to cut, one that owes silence, and one whose transmission ends. -/
theorem witness_TransmitReachesOthers_wires :
    (let s := (ctrlEvent ctrl (.cut (.slot 3))).setWire (.slot 3) [sent [0x01]];
      s.inputs = [.cut (.slot 3)] :: [] ∧ s.params (.slot 3) = some Params.vectors ∧
      s.wire (.slot 3) = [sent [0x01]] ∧ (sent [0x01]).carriage = .intact ∧ (sent [0x01]).bytes ≠ []) ∧
    (let t := { sent [] with carriage := .cut 1 };
      ((ctrlEvent ctrl (.rxByte (.slot 3) 0x55)).setWire (.slot 3) [t]).wire (.slot 3) = [t] ∧ t.bytes = []) ∧
    (let u := { sent [0x03] with ended := true };
      (State.reset.setWire (.slot 3) [u, sent [0x01]]).wire (.slot 3) = [u] ++ [sent [0x01]] ∧
      (u.sender ≠ .controller ∨ u.ended = true) ∧ (sent [0x01]).sender = .controller ∧
      (sent [0x01]).ended = false ∧ (sent []).bytes = [] ∧
      (∀ v ∈ (State.reset.setWire (.slot 3) [u]).wire (.slot 3), v.sender ≠ .controller ∨ v.ended = true)) := by refine ⟨?_, ?_, ?_⟩ <;> decide +kernel

theorem witness_LinesDriven :
    ∃ old now, State.reset.slots[3]? = some old ∧ (State.reset.setBoard 3 reg1).slots[3]? = some now ∧
      readyDriven now.board ≠ readyDriven old.board :=
  ⟨Slot.reset Params.vectors, { Slot.reset Params.vectors with board := some reg1 }, by decide +kernel,
    by decide +kernel, by decide +kernel⟩

/-- A level that arrives, an empty queue, a slot that does not exist. -/
theorem witness_LinesDriven_arrival :
    let s := ctrlEvent ctrl (.lineArrives .ready 3)
    s.inputs = [.lineArrives .ready 3] :: [] ∧ s.slots[3]? = some (Slot.reset Params.vectors) ∧
    (Slot.reset Params.vectors).ready.inFlight = true :: [] ∧ (Slot.reset Params.vectors).sel.inFlight = [] ∧
    s.slots[4]? = none := by decide +kernel

theorem witness_InitRegisters :
    ((atBoard selected).active = .slot 0 ∧ (atBoard selected).board 0 = some selected ∧ selected.est = .selected ∧
      selected.selSync = true) ∧
    (assignable 0x01 ∧ body [0x01] = 0x01 :: List.replicate 251 0x00) ∧
    (assignable 0xFE ∧ body [0xFE] = 0xFE :: List.replicate 251 0x00) ∧
    parse .init (body [0xFF]) = none ∧ (0xFE : Byte) ≠ 0xFF := by refine ⟨?_, ?_, ?_, ?_⟩ <;> decide +kernel

theorem witness_InitRetried :
    ((atBoard reg1Sel).active = .slot 0 ∧ (atBoard reg1Sel).board 0 = some reg1Sel ∧ reg1Sel.est = .registered ∧
      reg1Sel.selSync = true ∧ assignable 0xFE ∧ body [0xFE] = 0xFE :: List.replicate 251 0x00 ∧
      parse .init badBody = none) ∧
    ((atBoard reg1).active = .slot 0 ∧ (atBoard reg1).board 0 = some reg1 ∧ reg1.est = .registered ∧
      reg1.selSync = false) := by refine ⟨?_, ?_⟩ <;> decide +kernel

/-- Also of `DecodeFailureAtBoard` and `BroadcastSilence`, whose board is the same. -/
theorem witness_UnexpectedTypeAnswered :
    (atBoard reg1).active = .slot 0 ∧ (atBoard reg1).board 0 = some reg1 ∧ reg1.est = .registered ∧
    reg1.extId ≠ 0xFF := by decide +kernel

/-- The four kinds of probe: broadcast and accepted, addressed, malformed, and not accepted. -/
theorem witness_InitProbeAnswered :
    ((atBoard selected).board 0 = some selected ∧ selected.extId ≠ 0xFF ∧ selected.selSync = true ∧
      body [] = List.replicate 252 0x00 ∧ parse .initProbe badBody = none ∧ ¬((0xFF : Byte) = selected.extId)) ∧
    ((atBoard reg1).board 0 = some reg1 ∧ reg1.extId ≠ 0xFF ∧ (0x01 : Byte) = reg1.extId ∧ reg1.est = .registered) ∧
    ¬(((0xFF : Byte) = 0xFF ∧ reg1.selSync = true) ∨ ((0xFF : Byte) = reg1.extId ∧ reg1.est = .registered)) := by
  refine ⟨?_, ?_, ?_⟩ <;> decide +kernel

theorem witness_RestartUnregisters :
    ((atBoard reg1).active = .slot 0 ∧ (atBoard reg1).board 0 = some reg1 ∧ reg1.est = .registered) ∧
    ((0x01 : Byte) = reg1.extId ∧ (0xFF : Byte) ≠ reg1.extId) ∧
    (body [] = List.replicate 252 0x00 ∧ parse .restart badBody = none) := by refine ⟨?_, ?_, ?_⟩ <;> decide +kernel

theorem witness_ConfigureStores :
    ((atBoard reg1).active = .slot 0 ∧ (atBoard reg1).board 0 = some reg1 ∧ reg1.est = .registered ∧
      reg1.extId ≠ 0xFF ∧ Memory.wf reg1.mem) ∧
    ((List.replicate 251 (0x5A : Byte)).length ≤ 251 ∧
      blobBody 251 = BitVec.ofNat 8 (List.replicate 251 (0x5A : Byte)).length :: List.replicate 251 (0x5A : Byte) ++
        List.replicate (251 - (List.replicate 251 (0x5A : Byte)).length) 0x00) ∧
    (body [] = BitVec.ofNat 8 ([] : List Byte).length :: [] ++
        List.replicate (251 - ([] : List Byte).length) 0x00) ∧
    parse .configure (body [0xFC]) = none := by refine ⟨?_, ?_, ?_, ?_⟩ <;> decide +kernel

theorem witness_ReadRequestsAnswered :
    (let e := { reg1 with metricsLen := 251, optionsLen := 252 };
      (atBoard e).active = .slot 0 ∧ (atBoard e).board 0 = some e ∧ e.est = .registered ∧ e.extId ≠ 0xFF ∧
      e.metricsLen.toNat ≤ 251 ∧ 251 < e.optionsLen.toNat) ∧
    (let e := { reg1 with metricsLen := 252, optionsLen := 251 };
      (atBoard e).active = .slot 0 ∧ (atBoard e).board 0 = some e ∧ e.est = .registered ∧ e.extId ≠ 0xFF ∧
      251 < e.metricsLen.toNat ∧ e.optionsLen.toNat ≤ 251) ∧
    (body [] = List.replicate 252 0x00 ∧ parse .metrics badBody = none ∧ parse .configureOptions badBody = none) := by
  refine ⟨?_, ?_, ?_⟩ <;> decide +kernel

/-- The addressed board answers; another address and an unregistered board do not; and a reason without an address. -/
theorem witness_DecodeFailureAtBoard :
    ((atBoard reg1).active = .slot 0 ∧ (atBoard reg1).board 0 = some reg1 ∧
      (reg1.est = .registered ∧ (0x01 : Byte) = reg1.extId) ∧ ¬(reg1.est = .registered ∧ (0xFF : Byte) = reg1.extId)) ∧
    ∀ r t, DecodeError.checksumMismatch 0x64 ≠ .unknownType r t := ⟨by decide +kernel, by simp⟩

theorem witness_AddressFilter :
    (atBoard reg1).active = .slot 0 ∧ (atBoard reg1).board 0 = some reg1 ∧ reg1.est = .registered ∧
    (0xFE : Byte) ≠ reg1.extId ∧ (0xFE : Byte) ≠ 0xFF ∧ PacketType.ofCode 0x0C = none ∧ PacketType.ofCode 0x00 = none :=
  by decide +kernel

theorem witness_UnregisteredSilence :
    (let e := board .uninitialized 0x00 false;
      (atBoard e).active = .slot 0 ∧ (atBoard e).board 0 = some e ∧ e.est ≠ .registered ∧
      (e.est = .selected ↔ e.selSync = true) ∧ e.est = .uninitialized) ∧
    ((atBoard selected).active = .slot 0 ∧ (atBoard selected).board 0 = some selected ∧ selected.est ≠ .registered ∧
      (selected.est = .selected ↔ selected.selSync = true) ∧ selected.est = .selected ∧
      ¬((0xFF : Byte) = 0xFF ∧ (PacketType.init = .init ∨ PacketType.init = .initProbe) ∧
        parse .init badBody ≠ none)) ∧
    PacketType.ofCode 0xFF = none := by refine ⟨?_, ?_, ?_⟩ <;> decide +kernel

theorem witness_BroadcastSilence :
    ((atBoard reg1).active = .slot 0 ∧ (atBoard reg1).board 0 = some reg1 ∧ reg1.est = .registered ∧
      reg1.extId ≠ 0xFF) ∧
    (PacketType.init ≠ .restart ∧
      ¬(reg1.selSync = true ∧ (PacketType.init = .init ∨ PacketType.init = .initProbe))) ∧
    PacketType.ofCode 0x0C = none := by refine ⟨?_, ?_, ?_⟩ <;> decide +kernel

theorem witness_RepliesToMaster :
    (reg1.framer.outbox = none ∧ ∃ e' f, (e' = reg1.frameReceived 0x01 .metrics (body [])) ∧
      e'.framer.outbox = some f) ∧
    ∃ e' f, e' = reg1.decodeFailed (.unknownType 0x01 0x0C) ∧ e'.framer.outbox = some f :=
  ⟨⟨rfl, _, frame [0x01, 0x00, 0x09] 0x04, rfl, by decide +kernel⟩,
    _, fErr 1, rfl, by decide +kernel⟩

theorem witness_BoardTick :
    (reg1.est ≠ .registered → (reg1.est = .selected ↔ reg1.selSync = true)) ∧
    (selected.est ≠ .registered ∧ (selected.est = .selected ↔ selected.selSync = true)) := by decide

theorem witness_ControllerAddressFilter :
    (atCtrl registering).active = .controller ∧ (0x01 : Byte) ≠ 0x00 := by decide

/-- The four states' cases: neither wait state; REG_WAIT; CMD_WAIT; and the decode failures. -/
theorem witness_ControllerDiscards :
    ((atCtrl ctrl).active = .controller ∧ ctrl.cst ≠ .regWait ∧ ctrl.cst ≠ .cmdWait) ∧
    (registering.cst = .regWait ∧ ¬(PacketType.acknowledge = .acknowledge ∧ parse .acknowledge badBody ≠ none)) ∧
    ((waiting 0x00000101 0x09).cst = .cmdWait ∧ parse .metricsResponse (body [0xFC]) = none ∧
      PacketType.acknowledge.code ≠ (waiting 0x00000101 0x09).expType ∧ PacketType.acknowledge ≠ .error) ∧
    PacketType.ofCode 0x0C = none ∧
    ¬(registering.cst = .cmdWait ∧ ∃ c, DecodeError.checksumMismatch 0x25 = .checksumMismatch c) :=
  ⟨by decide +kernel, by decide +kernel, by decide +kernel, by decide, fun h => absurd h.1 (by decide)⟩

theorem witness_AcknowledgeRegisters :
    (atCtrl registering).active = .controller ∧ (atCtrl registering).ctrl = registering ∧ registering.cst = .regWait :=
  ⟨rfl, rfl, rfl⟩

theorem witness_AcknowledgeCompletesConfigure :
    let c := waiting 0x00030102 0x04
    (atCtrl c).active = .controller ∧ (atCtrl c).ctrl = c ∧ c.cst = .cmdWait ∧ c.expType = 0x04 ∧
    opcOf c.curCmd = 0x02 := ⟨rfl, rfl, rfl, rfl, by decide⟩

theorem witness_ResponseCompletes :
    (let c := waiting 0x00000101 0x09;
      (atCtrl c).active = .controller ∧ (atCtrl c).ctrl = c ∧ c.cst = .cmdWait ∧ c.expType = 0x09 ∧
      opcOf c.curCmd = 0x01 ∧ Memory.wf c.mem) ∧
    (let c := waiting 0x00000103 0x0B;
      (atCtrl c).active = .controller ∧ (atCtrl c).ctrl = c ∧ c.cst = .cmdWait ∧ c.expType = 0x0B ∧
      opcOf c.curCmd = 0x03) ∧
    (List.replicate 251 (0x5A : Byte)).length ≤ 251 ∧
    blobBody 251 = BitVec.ofNat 8 (List.replicate 251 (0x5A : Byte)).length :: List.replicate 251 (0x5A : Byte) ++
      List.replicate (251 - (List.replicate 251 (0x5A : Byte)).length) 0x00 :=
  ⟨⟨rfl, rfl, rfl, rfl, by decide, by decide⟩, ⟨rfl, rfl, rfl, rfl, by decide⟩, by decide +kernel, by decide +kernel⟩

theorem witness_ProbeResponseCompletes :
    (let c := waiting 0x00000205 0x02;
      (atCtrl c).active = .controller ∧ (atCtrl c).ctrl = c ∧ c.cst = .cmdWait ∧ c.expType = 0x02 ∧
      opcOf c.curCmd = 0x05 ∧ Memory.wf c.mem) ∧ assignable 0x01 ∧ assignable 0xFE :=
  ⟨⟨rfl, rfl, rfl, rfl, by decide, by decide⟩, by decide, by decide⟩

theorem witness_ErrorRejects :
    let c := waiting 0x00000101 0x09
    (atCtrl c).active = .controller ∧ (atCtrl c).ctrl = c ∧ c.cst = .cmdWait ∧ c.expType ≠ 0x05 :=
  ⟨rfl, rfl, rfl, by decide⟩

theorem witness_RequestsStart :
    (atCtrl ctrl).ctrl = ctrl ∧ assignable 0x01 ∧ (ctrl.record 0x01).status = .registered ∧
    (251 : Byte).toNat ≤ 251 := ⟨rfl, by decide, by decide +kernel, by decide⟩

theorem witness_RequestErrors :
    (atCtrl ctrl).ctrl = ctrl ∧ (assignable 0xFE ∧ (ctrl.record 0xFE).status = .absent) ∧
    (let c := ctrl.setStatus 0x01 .unresponsive;
      (c.record 0x01).status ≠ .absent ∧ (c.record 0x01).status ≠ .registered) ∧
    (assignable 0x01 ∧ (ctrl.record 0x01).status = .registered ∧ 251 < (252 : Byte).toNat) :=
  ⟨rfl, by decide +kernel, by decide +kernel, by decide +kernel⟩

theorem witness_RestartCommand :
    ((atCtrl ctrl).ctrl = ctrl ∧ (assignable 0xFE ∧ (ctrl.record 0xFE).status = .absent) ∧
      (assignable 0x01 ∧ (ctrl.record 0x01).status ≠ .absent)) ∧
    (let c := { ctrl with cst := .cmdTx, curCmd := 0x0000FF04, curId := 0xFF };
      c.cst = .cmdTx ∧ opcOf c.curCmd = 0x04 ∧ (c.record 0x00).status = .absent ∧ (c.record 0xFF).status = .absent) :=
  ⟨⟨rfl, by decide +kernel, by decide +kernel⟩, by decide +kernel⟩

theorem witness_ProbeCommand :
    (atCtrl ctrl).ctrl = ctrl ∧ ctrl.params.nslots ≤ (4 : Byte).toNat ∧ (3 : Byte).toNat < ctrl.params.nslots ∧
    ctrl.params.tSettle = 0 ∧ { Params.vectors with tSettle := 3 }.tSettle ≠ 0 :=
  ⟨rfl, by decide +kernel, by decide +kernel, by decide +kernel, by decide⟩

theorem witness_CommandWrite :
    (waiting 0x00000101 0x09).statusWord.getLsbD 0 = true ∧ registering.statusWord.getLsbD 0 = false := by
  decide +kernel

theorem witness_Arbitration :
    registering.cst ≠ .idle ∧
    (let c := { ctrl with pending := 0b1000 };
      c.cst = .idle ∧ 3 < c.params.nslots ∧ c.pending.getLsbD 3 = true ∧ ∀ j, j < 3 → c.pending.getLsbD j = false) ∧
    (ctrl.cst = .idle ∧ (∀ k, k < ctrl.params.nslots → ctrl.pending.getLsbD k = false) ∧ ctrl.cmdValid = false) ∧
    { ctrl with cmdValid := true }.cmdValid = true := by refine ⟨?_, ?_, ?_, ?_⟩ <;> decide +kernel

theorem witness_RegistrationStarts :
    (3 < ctrl.params.nslots ∧ ctrl.params.nslots ≤ 32 ∧ ctrl.nextId ≠ 0xFF) ∧
    { ctrl with nextId := 0xFF }.nextId = 0xFF := by decide +kernel

theorem witness_RegistrationAttemptFails :
    (registering.attempts.toNat ≤ registering.params.rRetries.toNat ∧ registering.cst = .regWait ∧
      registering.attempts.toNat < registering.params.rRetries.toNat) ∧
    (let c := { registering with cst := .regTx, attempts := 2 };
      c.attempts.toNat ≤ c.params.rRetries.toNat ∧ c.cst = .regTx ∧
      c.attempts.toNat = c.params.rRetries.toNat) := by decide +kernel

theorem witness_CommandAttemptFails :
    (let c := waiting 0x00000101 0x09;
      c.attempts.toNat ≤ c.params.rRetries.toNat ∧ c.cst = .cmdWait ∧ c.attempts.toNat < c.params.rRetries.toNat) ∧
    (let c := { waiting 0x00000104 0x00 with cst := .cmdTx, attempts := 2 };
      c.attempts.toNat = c.params.rRetries.toNat ∧ c.cst = .cmdTx ∧ opcOf c.curCmd = 0x04) ∧
    (opcOf (waiting 0x00000205 0x02).curCmd = 0x05 ∧ opcOf (waiting 0x00000101 0x09).curCmd ≠ 0x05 ∧
      opcOf (waiting 0x00000101 0x09).curCmd ≠ 0x04) := by refine ⟨?_, ?_, ?_⟩ <;> decide +kernel

theorem witness_ResponseTimer :
    (let c := { registering with cst := .regTx };
      c.params.tTimeout ≠ 0 ∧ c.cst = .regTx ∧ ([] : List (BitVec 32)).length < c.params.tTimeout.toNat ∧
      (List.replicate 100 (0 : BitVec 32)).length = c.params.tTimeout.toNat) ∧
    (let c := { waiting 0x00000101 0x09 with cst := .cmdTx };
      c.params.tTimeout ≠ 0 ∧ c.cst = .cmdTx ∧ opcOf c.curCmd ≠ 0x04) ∧
    (ctrl.cst ≠ .regTx ∧ ctrl.cst ≠ .cmdTx) := by refine ⟨?_, ?_, ?_⟩ <;> decide +kernel

theorem witness_ControllerTick :
    (ctrl.params.nslots ≤ 32 ∧ 3 < ctrl.params.nslots ∧ (0xFE : Byte) ≠ ctrl.curId ∧ 3 ≠ ctrl.curSlot.toNat) ∧
    (let c := { ctrl with cst := .regSettle, settleCount := 1 };
      c.cst = .regSettle ∧ c.settleCount = 1 ∧ { c with settleCount := 2 }.settleCount ≠ 1) ∧
    (let c := { ctrl with cst := .cmdWait, timerArmed := true, timerCount := 1 };
      c.cst = .cmdWait ∧ c.timerArmed = true ∧ c.timerCount = 1 ∧ { c with timerCount := 2 }.timerCount ≠ 1) ∧
    { ctrl with cst := .cmdSettle }.cst = .cmdSettle ∧ ctrl.cst ≠ .regSettle ∧ ctrl.cst ≠ .cmdSettle ∧
    ctrl.timerArmed = false ∧ ctrl.params.nslots ≤ 4 := by
  refine ⟨?_, ?_, ?_, ?_⟩ <;> decide +kernel

theorem witness_HostAccess :
    (let s := ctrlEvent ctrl (.memRead .controller 0x00E 4);
      s.inputs = [.memRead .controller 0x00E 4] :: [] ∧ (s.params .controller).isSome = true ∧
      ¬(4 = 4 ∧ (0x00E#12).toNat % 4 = 0)) ∧
    (let s := boardEvent reg1 (.memRead (.slot 0) 0xFFC 4);
      s.inputs = [.memRead (.slot 0) 0xFFC 4] :: [] ∧ s.board 0 = some reg1 ∧ reg1.framer.outbox = none ∧
      (0xFFC#12).toNat % 4 = 0) ∧
    (let s := boardEvent reg1 (.memWrite (.slot 0) 0x008 4 0xFFFFFFFF);
      s.inputs = [.memWrite (.slot 0) 0x008 4 0xFFFFFFFF] :: [] ∧ s.board 0 = some reg1 ∧
      reg1.framer.outbox = none ∧ (0x008#12).toNat % 4 = 0) ∧
    ((ctrlEvent ctrl (.memRead .controller 0xFFC 4)).inputs = [.memRead .controller 0xFFC 4] :: [] ∧
      (ctrlEvent ctrl (.memWrite .controller 0x014 4 0x1E)).inputs = [.memWrite .controller 0x014 4 0x1E] :: []) := by
  refine ⟨?_, ?_, ?_, ?_⟩ <;> decide +kernel

theorem witness_BufferWords :
    (0x100 ≤ 0x1FC ∧ 0x1FC < 0x200 ∧ 0x1FC % 4 = 0) ∧ (0x100 ≤ 0x2FC ∧ 0x2FC < 0x300 ∧ 0x2FC % 4 = 0) ∧
    (0x200 % 4 = 0 ∧ 0x200 ≠ 0x1FC) ∧ 0x1FB < 0x1FC ∧ 0x1FC + 4 ≤ 0x200 := by decide

theorem witness_ResetValues :
    (let s := boardEvent sendingBoard (.reset (.slot 0));
      s.inputs = [.reset (.slot 0)] :: [] ∧ (s.slots[0]?).bind (·.board) = some sendingBoard ∧
      s.busy (.slot 0) = true ∧ s.busy .controller = false) ∧
    (let s := ctrlEvent registering (.reset .controller);
      s.inputs = [.reset .controller] :: [] ∧ ∀ k, k < s.ctrl.params.nslots → s.readyLevels.getLsbD k = false) ∧
    (let s := readyAt 2 (ctrlEvent registering (.reset .controller));
      s.inputs = [.reset .controller] :: [] ∧ 2 < s.ctrl.params.nslots ∧ s.readyLevels.getLsbD 2 = true ∧
      (∀ j, j < 2 → s.readyLevels.getLsbD j = false) ∧ (s.slots[2]?).isSome = true) := by
  refine ⟨?_, ?_, ?_⟩ <;> decide +kernel

/-- Insertion in an empty slot, in an occupied one and out of range; removal of a board, and from an empty slot. -/
theorem witness_ResetValues_attach :
    (let s := (ctrlEvent ctrl (.attach 3 Params.vectors)).mapSlot 3 (fun sl => { sl with board := none });
      s.inputs = [.attach 3 Params.vectors] :: [] ∧ (s.slots[3]?).map (·.board) = some none ∧ Params.vectors.ok ∧
      (s.board 0).isSome = true ∧ s.slots[4]? = none ∧ ¬{ Params.vectors with tGap := 0 }.ok) ∧
    (let s := ctrlEvent ctrl (.detach 3);
      s.inputs = [.detach 3] :: [] ∧ ((s.slots[3]?).bind (·.board)).isSome = true ∧ s.board 4 = none) := by
  refine ⟨?_, ?_⟩ <;> decide +kernel

/-- A bus of one slot, with a tick waiting, that meets the invariant. -/
def oneSlot : State := { State.resetWith { Params.vectors with nslots := 1 } with inputs := [[.tick .controller]] }

theorem oneSlot_ctrl_inv : oneSlot.ctrl.Inv where
  params := by decide
  sel := by decide +kernel
  slot := by decide +kernel
  busy := by decide +kernel
  timer := by decide +kernel
  timerLeft := by decide +kernel
  settleLeft := by decide +kernel
  cmdSettle := by decide +kernel
  attempts := by decide +kernel
  attemptsGoing := by decide +kernel
  nextId := by decide +kernel
  masterAbsent := by decide +kernel
  broadcastAbsent := by decide +kernel
  freeAbsent := fun i _ => by
    show ((Vector.replicate 256 ({ status := .absent, last := 0 } : Record))[i.toNat]'i.isLt).status = .absent
    rw [Vector.getElem_replicate]
  regId := by decide +kernel
  cmdId := by decide +kernel
  readyBits := by decide +kernel
  pendingBits := by decide +kernel
  mem := by decide
  rxBuf := by decide

theorem oneSlot_board (k : Nat) (e : Extension) (h : oneSlot.board k = some e) :
    e = Extension.reset { Params.vectors with nslots := 1 } false [] [] := by
  match k with
  | 0 => exact (Option.some.inj h).symm
  | k + 1 => exact nomatch (show none = some e from h)

theorem witness_StepKeepsInv : oneSlot.Inv ∧ ∃ t, step oneSlot = .next t := by
  refine ⟨⟨oneSlot_ctrl_inv, ?_, by decide, by decide, ?_⟩, _, rfl⟩
  · intro k e h
    rw [oneSlot_board k e h]
    constructor <;> decide
  · intro k e h
    rw [oneSlot_board k e h]
    rfl

theorem witness_OneSelectionLine : oneSlot.ctrl.Inv := oneSlot_ctrl_inv

/-- A step of a bus with a board, also for `IdsNeverReused`. -/
theorem witness_ParametersFixed :
    ∃ t, step oneSlot = .next t ∧ (oneSlot.board 0).isSome = true ∧ (t.board 0).isSome = true :=
  ⟨_, rfl, by decide +kernel, by decide +kernel⟩

theorem witness_IdsNeverReused :
    oneSlot.inputs = [.tick .controller] :: [] ∧ Event.tick .controller ≠ .reset .controller ∧
    (oneSlot.ctrl.cmdValid = true → opcOf oneSlot.ctrl.cmdLatched ≠ 0x06) ∧
    (∀ w, Event.tick .controller = .memWrite .controller 0x008 4 w → opcOf w ≠ 0x06) ∧
    ∃ t, step oneSlot = .next t :=
  ⟨rfl, by decide, fun h => Bool.noConfusion h, fun _ h => Event.noConfusion h, _, rfl⟩

end Sys2Proof.Tests
end

section
/-! ## What an instruction and the end of a step can do

Each is said once, so that a property of every step is proved by cases on these and not by unfolding `exec` again. -/

namespace Sys2Proof.Machine

/-- The meanings of the command words, the reserved opcodes among them (43_controller_commands.md rules R300..R322). -/
inductive Controller.CommandRule : (Controller → Controller) → Prop where
  | metrics (t : Byte) : CommandRule (fun c => c.cmdMetrics t)
  | configure (t n : Byte) : CommandRule (fun c => c.cmdConfigure t n)
  | configOptions (t : Byte) : CommandRule (fun c => c.cmdConfigOptions t)
  | restart (t : Byte) : CommandRule (fun c => c.cmdRestart t)
  | probe (k : Byte) : CommandRule (fun c => c.cmdProbe k)
  | resetRegistry : CommandRule (fun c => c.cmdResetRegistry)
  | reserved : CommandRule (fun c => c.badCommand)

/-- The next states an instruction can have, by its kind. -/
inductive State.ExecResult (s : State) : State → Prop where
  | packet (rid : Byte) (t : PacketType) (body : List Byte) : ExecResult s (s.frameReceived rid t body)
  | unassigned (reason : DecodeError) : ExecResult s (s.decodeFailed reason)
  | command {f : Controller → Controller} (h : Controller.CommandRule f) : ExecResult s (s.mapCtrl f)
  | framer (f : Params → FramerResult) : ExecResult s (s.framerCall f)

/-- Every instruction has a next state, and it is one of these. -/
theorem exec_eq_next (i : Instr) (s : State) : ∃ t, exec i s = .next t ∧ s.ExecResult t := by
  cases i with
  | initProbe rid body => exact ⟨_, rfl, .packet rid .initProbe body⟩
  | initProbeResponse rid body => exact ⟨_, rfl, .packet rid .initProbeResponse body⟩
  | init rid body => exact ⟨_, rfl, .packet rid .init body⟩
  | acknowledge rid body => exact ⟨_, rfl, .packet rid .acknowledge body⟩
  | error rid body => exact ⟨_, rfl, .packet rid .error body⟩
  | restart rid body => exact ⟨_, rfl, .packet rid .restart body⟩
  | configure rid body => exact ⟨_, rfl, .packet rid .configure body⟩
  | metrics rid body => exact ⟨_, rfl, .packet rid .metrics body⟩
  | metricsResponse rid body => exact ⟨_, rfl, .packet rid .metricsResponse body⟩
  | configureOptions rid body => exact ⟨_, rfl, .packet rid .configureOptions body⟩
  | configureOptionsResponse rid body => exact ⟨_, rfl, .packet rid .configureOptionsResponse body⟩
  | unassigned00 | unassigned0C | unassigned10 | unassigned20 | unassigned40 | unassigned80 =>
    exact ⟨_, rfl, .unassigned _⟩
  | cmdMetrics t => exact ⟨_, rfl, .command (.metrics t)⟩
  | cmdConfigure t n => exact ⟨_, rfl, .command (.configure t n)⟩
  | cmdConfigOptions t => exact ⟨_, rfl, .command (.configOptions t)⟩
  | cmdRestart t => exact ⟨_, rfl, .command (.restart t)⟩
  | cmdProbe k => exact ⟨_, rfl, .command (.probe k)⟩
  | cmdResetRegistry => exact ⟨_, rfl, .command .resetRegistry⟩
  | reserved00 | reserved07 | reserved08 | reserved10 | reserved20 | reserved40 | reserved80 =>
    exact ⟨_, rfl, .command .reserved⟩
  | crc8 | encode | decode | parse => exact ⟨_, rfl, .framer _⟩

theorem exec_cases {i : Instr} {s t : State} (h : exec i s = .next t) : s.ExecResult t := by
  obtain ⟨t', h', hr⟩ := exec_eq_next i s
  cases h'.symm.trans h
  exact hr

/-- `arbitrate()` leaves the state, starts a registration, or runs a command of the freed latch
(42_controller_registration.md rule R260). -/
theorem State.arbitrate_cases {s t : State} (h : s.arbitrate = .next t) :
    t = s ∨ (∃ k, t = s.mapCtrl (fun c => c.startRegistration k)) ∨
      State.ExecResult { s.mapCtrl (fun c => c.takeCommand) with active := .controller } t := by
  unfold State.arbitrate at h
  split at h
  · exact .inl (Host.Outcome.next.inj h).symm
  · split at h
    · exact .inr (.inl ⟨_, (Host.Outcome.next.inj h).symm⟩)
    · split at h
      · exact .inr (.inr (exec_cases h))
      · exact .inl (Host.Outcome.next.inj h).symm

/-- A step of a core that has a next state: the event's own, what `arbitrate()` makes of it at the Controller, and the
handing over of a frame and the driving of the lines. -/
theorem endStep_eq_next {before t : State} {n : Node} {o : Host.Outcome State Fault Refusal}
    (h : endStep before n o = .next t) :
    ∃ u v, o = .next u ∧ (if n = .controller then u.arbitrate else .next u) = .next v ∧
      t = (v.transmit n).driveLines before := by
  cases o with
  | fault r => cases h
  | refused r => cases h
  | next u =>
    simp only [endStep] at h
    split at h
    · cases h
    · cases h
    · rename_i v hv
      cases h
      exact ⟨u, v, rfl, hv, rfl⟩

end Sys2Proof.Machine
end

section
/-! ## The parameters (00_scope.md rule R10)

No operation of a core writes its parameters, and no operation of the bus but `attach` and `detach` changes which
parameters stand at a node. -/

namespace Sys2Proof.Machine

/-! ### The Controller -/

@[simp] theorem Controller.sendInit_params (c : Controller) : c.sendInit.params = c.params := rfl

@[simp] theorem Controller.settleOrSend_params (c : Controller) : c.settleOrSend.params = c.params := by
  unfold Controller.settleOrSend
  split <;> simp

@[simp] theorem Controller.allocate_params (c : Controller) : c.allocate.params = c.params := by
  unfold Controller.allocate
  split <;> simp

@[simp] theorem Controller.startRegistration_params (c : Controller) (k : Nat) :
    (c.startRegistration k).params = c.params := by
  simp [Controller.startRegistration]

@[simp] theorem Controller.registrationDone_params (c : Controller) : c.registrationDone.params = c.params := rfl

@[simp] theorem Controller.regAttemptFailed_params (c : Controller) : c.regAttemptFailed.params = c.params := by
  rw [Controller.regAttemptFailed_eq]
  split <;> rfl

@[simp] theorem Controller.startExchange_params (c : Controller) (t : Byte) (frame : List Byte) (exp : Byte) :
    (c.startExchange t frame exp).params = c.params := rfl

@[simp] theorem Controller.request_params (c : Controller) (t : Byte) (p : Payload) (exp : PacketType) :
    (c.request t p exp).params = c.params := by
  unfold Controller.request
  split
  · simp
  · split <;> simp

@[simp] theorem Controller.cmdRestart_params (c : Controller) (t : Byte) : (c.cmdRestart t).params = c.params := by
  unfold Controller.cmdRestart
  split
  · simp
  · split <;> simp

@[simp] theorem Controller.cmdProbe_params (c : Controller) (k : Byte) : (c.cmdProbe k).params = c.params := by
  unfold Controller.cmdProbe
  split
  · simp
  · simp only
    split <;> simp

theorem Controller.CommandRule.params {f : Controller → Controller} (h : Controller.CommandRule f) (c : Controller) :
    (f c).params = c.params := by
  cases h with
  | metrics t => exact Controller.request_params _ _ _ _
  | configure t n => exact Controller.request_params _ _ _ _
  | configOptions t => exact Controller.request_params _ _ _ _
  | restart t => exact Controller.cmdRestart_params _ _
  | probe k => exact Controller.cmdProbe_params _ _
  | resetRegistry => rfl
  | reserved => rfl

@[simp] theorem Controller.restartSent_params (c : Controller) : c.restartSent.params = c.params := by
  unfold Controller.restartSent
  simp only [Controller.complete_params]
  split <;> simp

@[simp] theorem Controller.success_params (c : Controller) (f : Payload) : (c.success f).params = c.params := by
  unfold Controller.success
  split
  · simp only
    split
    · split <;> simp
    · simp
  · split <;> simp

@[simp] theorem Controller.rejected_params (c : Controller) (code : Byte) : (c.rejected code).params = c.params := by
  unfold Controller.rejected
  simp only [Controller.complete_params]
  split <;> simp

@[simp] theorem Controller.cmdAttemptFailed_params (c : Controller) : c.cmdAttemptFailed.params = c.params := by
  unfold Controller.cmdAttemptFailed
  simp only
  split
  · simp
  · split
    · simp
    · split <;> simp

@[simp] theorem Controller.frameReceived_params (c : Controller) (rid : Byte) (t : PacketType) (body : List Byte) :
    (c.frameReceived rid t body).params = c.params := by
  unfold Controller.frameReceived
  split
  · rfl
  · cases c.cst with
    | regWait => simp only; split <;> simp
    | cmdWait =>
      simp only
      split
      · rfl
      · split
        · simp
        · split <;> simp
    | idle | regSettle | regTx | cmdSettle | cmdTx => rfl

@[simp] theorem Controller.decodeFailed_params (c : Controller) (reason : DecodeError) :
    (c.decodeFailed reason).params = c.params := by
  cases reason with
  | checksumMismatch crc =>
    simp only [Controller.decodeFailed]
    split <;> simp
  | lengthMismatch | versionMismatch | unknownType => rfl

@[simp] theorem Controller.txDone_params (c : Controller) : c.txDone.params = c.params := by
  unfold Controller.txDone
  cases c.cst with
  | cmdTx => simp only; split <;> simp
  | idle | regSettle | regTx | regWait | cmdSettle | cmdWait => rfl

@[simp] theorem Controller.txError_params (c : Controller) : c.txError.params = c.params := by
  unfold Controller.txError
  simp only
  split <;> simp

@[simp] theorem Controller.timeout_params (c : Controller) : c.timeout.params = c.params := by
  unfold Controller.timeout
  split <;> simp

@[simp] theorem Controller.sampleReady_params (c : Controller) (levels : BitVec 32) :
    (c.sampleReady levels).params = c.params := rfl

@[simp] theorem Controller.tickGap_params (c : Controller) : c.tickGap.params = c.params := by
  rw [Controller.tickGap_eq]

@[simp] theorem Controller.tickSettle_params (c : Controller) : c.tickSettle.params = c.params := by
  unfold Controller.tickSettle
  cases c.cst with
  | regSettle | cmdSettle => simp only; split <;> simp
  | idle | regTx | regWait | cmdTx | cmdWait => rfl

@[simp] theorem Controller.tickTimer_params (c : Controller) : c.tickTimer.params = c.params := by
  unfold Controller.tickTimer
  split
  · simp only
    split <;> simp
  · rfl

@[simp] theorem Controller.tick_params (c : Controller) (levels : BitVec 32) : (c.tick levels).params = c.params := by
  simp [Controller.tick]

@[simp] theorem Controller.issueCommand_params (c : Controller) (w : Word) : (c.issueCommand w).params = c.params := by
  unfold Controller.issueCommand
  split <;> rfl

@[simp] theorem Controller.applyWrite_params (c : Controller) (a : Nat) (v : Word) :
    (c.applyWrite a v).params = c.params := by
  unfold Controller.applyWrite
  split
  · simp
  · split
    · simp
    · split
      · rfl
      · split <;> rfl

/-! ### A board -/

@[simp] theorem Extension.decodeFailed_params (e : Extension) (reason : DecodeError) :
    (e.decodeFailed reason).params = e.params := by
  cases reason with
  | unknownType rid t =>
    simp only [Extension.decodeFailed]
    split <;> simp
  | lengthMismatch | versionMismatch | checksumMismatch => rfl

@[simp] theorem Extension.tick_params (e : Extension) (level : Bool) : (e.tick level).params = e.params := by
  rw [Extension.tick_eq]
  exact (Extension.sampleSel_frame e level).2.1

@[simp] theorem Extension.applyWrite_params (e : Extension) (a : Nat) (v : Word) :
    (e.applyWrite a v).params = e.params := by
  unfold Extension.applyWrite
  split
  · simp
  · split
    · rfl
    · split
      · rfl
      · split
        · rfl
        · split <;> rfl

/-! ### The nodes of the bus -/

/-- The parameters see only the two cores. -/
theorem State.params_congr {s t : State} (hc : t.ctrl = s.ctrl) (hs : t.slots = s.slots) (n : Node) :
    t.params n = s.params n := by
  cases n with
  | controller => simp [State.params, hc]
  | slot k => simp [State.params, State.board, hs]

theorem State.params_mapCtrl {f : Controller → Controller} (hf : ∀ c, (f c).params = c.params) (s : State) (n : Node) :
    (s.mapCtrl f).params n = s.params n := by
  cases n with
  | controller => simp [State.params, hf]
  | slot k => rfl

theorem State.params_mapBoard {f : Extension → Extension} (hf : ∀ e, (f e).params = e.params) (s : State) (k : Nat)
    (n : Node) : (s.mapBoard k f).params n = s.params n := by
  cases n with
  | controller => rfl
  | slot j =>
    by_cases hj : j = k
    · subst hj
      simp [State.params, State.board_mapBoard_same, Function.comp_def, hf]
    · simp [State.params, State.board_mapBoard_other s f hj]

theorem State.params_mapNode {fc : Controller → Controller} {fe : Extension → Extension}
    (hc : ∀ c, (fc c).params = c.params) (he : ∀ e, (fe e).params = e.params) (s : State) (m n : Node) :
    (s.mapNode m fc fe).params n = s.params n := by
  cases m with
  | controller => exact State.params_mapCtrl hc s n
  | slot k => exact State.params_mapBoard he s k n

@[simp] theorem State.params_mapFramer (s : State) (m n : Node) (f : Framer → Framer) :
    (s.mapFramer m f).params n = s.params n := by
  unfold State.mapFramer
  exact State.params_mapNode (by simp) (by simp) s m n

@[simp] theorem State.params_frameReceived (s : State) (rid : Byte) (t : PacketType) (body : List Byte) (n : Node) :
    (s.frameReceived rid t body).params n = s.params n :=
  State.params_mapNode (fun c => c.frameReceived_params rid t body) (fun e => e.frameReceived_params rid t body) s _ n

@[simp] theorem State.params_decodeFailed (s : State) (reason : DecodeError) (n : Node) :
    (s.decodeFailed reason).params n = s.params n :=
  State.params_mapNode (fun c => c.decodeFailed_params reason) (fun e => e.decodeFailed_params reason) s _ n

@[simp] theorem State.params_hear (s : State) (m : Node) (f : List Byte) (n : Node) :
    (s.hear m f).params n = s.params n := by
  rw [State.hear, ← State.params_mapWires s _ n]
  exact State.params_congr rfl rfl n

@[simp] theorem State.params_transmit (s : State) (m n : Node) : (s.transmit m).params n = s.params n := by
  unfold State.transmit
  split <;> simp

@[simp] theorem State.params_sendEnds (s : State) (m n : Node) : (s.sendEnds m).params n = s.params n := by
  simp [State.sendEnds]

@[simp] theorem State.params_giveUp (s : State) (m n : Node) : (s.giveUp m).params n = s.params n := by
  simp [State.giveUp]

@[simp] theorem State.params_abandon (s : State) (m n : Node) : (s.abandon m).params n = s.params n := by
  unfold State.abandon
  split <;> simp

@[simp] theorem State.params_takeByte (s : State) (m : Node) (w : Wire) (n : Node) :
    (s.takeByte m w).params n = s.params n := by
  unfold State.takeByte
  split <;> simp

@[simp] theorem State.params_silentTick (s : State) (m n : Node) : (s.silentTick m).params n = s.params n := by
  simp [State.silentTick]

/-- Driving the lines moves no board. -/
theorem driveSlots_board (o w : BitVec 32) (k j : Nat) (olds sls : List Slot) :
    (driveSlots o w k olds sls)[j]?.bind (·.board) = sls[j]?.bind (·.board) := by
  induction sls generalizing k j olds with
  | nil => cases olds <;> rfl
  | cons sl sls ih =>
    cases olds with
    | nil => rfl
    | cons old olds =>
      cases j with
      | zero => rfl
      | succ j => exact ih (k + 1) j olds

@[simp] theorem State.board_driveLines (s before : State) (k : Nat) : (s.driveLines before).board k = s.board k :=
  driveSlots_board _ _ 0 k _ _

@[simp] theorem State.params_driveLines (s before : State) (n : Node) :
    (s.driveLines before).params n = s.params n := by
  cases n <;> simp [State.params]

/-! ### A step -/

theorem State.ExecResult.params {s t : State} (h : s.ExecResult t) (n : Node) : t.params n = s.params n := by
  cases h with
  | packet rid t body => simp
  | unassigned reason => simp
  | command hf => exact State.params_mapCtrl hf.params s n
  | framer f => exact State.params_congr rfl rfl n

theorem State.params_arbitrate {s t : State} (h : s.arbitrate = .next t) (n : Node) : t.params n = s.params n := by
  rcases State.arbitrate_cases h with rfl | ⟨k, rfl⟩ | hr
  · rfl
  · exact State.params_mapCtrl (fun c => c.startRegistration_params k) s n
  · exact (hr.params n).trans (State.params_mapCtrl Controller.takeCommand_params s n)

theorem State.params_deliverFrame {s t : State} {p : Params} {bytes : List Byte}
    (h : s.deliverFrame p bytes = .next t) (n : Node) : t.params n = s.params n := by
  unfold State.deliverFrame at h
  split at h
  · exact (exec_cases h).params n
  · cases h
    exact State.params_decodeFailed s _ n

/-- The end of a step changes no parameters. -/
theorem endStep_params {before u t : State} {m : Node} (h : endStep before m (.next u) = .next t) (n : Node) :
    t.params n = u.params n := by
  obtain ⟨_, v, hu, hv, rfl⟩ := endStep_eq_next h
  cases hu
  rw [State.params_driveLines, State.params_transmit]
  split at hv
  · exact State.params_arbitrate hv n
  · cases hv
    rfl

theorem State.params_receive {s t : State} {m : Node} {b : Byte} (h : s.receive m b = .next t) (n : Node) :
    t.params n = s.params n := by
  unfold State.receive at h
  split at h
  next fr p _ _ =>
    have filled : (State.params { s.mapFramer m (fun _ => (fr.rxByte b).1) with active := m } n) = s.params n :=
      (State.params_congr rfl rfl n).trans (State.params_mapFramer s m n _)
    split at h
    · cases h
      rfl
    · simp only at h
      split at h
      · exact (endStep_params h n).trans filled
      · obtain ⟨u, _, hu, _, _⟩ := endStep_eq_next h
        rw [hu] at h
        exact ((endStep_params h n).trans (State.params_deliverFrame hu n)).trans filled
  next =>
    cases h
    rfl

theorem State.params_arrives {s t : State} {m : Node} {b : Byte} {w : Wire} (h : s.arrives m b w = .next t)
    (n : Node) : t.params n = s.params n :=
  (State.params_receive h n).trans (State.params_takeByte s m w n)

@[simp] theorem State.params_resetCore (s : State) (m n : Node) : (s.resetCore m).params n = s.params n := by
  rw [← State.params_abandon s m n]
  exact (State.params_congr rfl rfl n).trans (State.params_mapNode
    (by simp [resetController, Controller.reset]) (by simp [resetExtension, Extension.reset]) _ m n)

/-- A core stands at a node exactly when parameters do. -/
theorem State.present_iff {s : State} {n : Node} : s.present n = true ↔ ∃ p, s.params n = some p :=
  Option.isSome_iff_exists

theorem State.params_mapSlot_other (s : State) {k : Nat} {n : Node} (f : Slot → Slot) (h : n ≠ .slot k) :
    (s.mapSlot k f).params n = s.params n := by
  cases n with
  | controller => rfl
  | slot j =>
    have hj : ¬k = j := fun hk => h (congrArg Node.slot hk.symm)
    simp only [State.params, State.board, State.mapSlot_slots_getElem?, if_neg hj]

/-! The events that neither insert nor remove a board. -/

theorem State.params_txDone {s t : State} {m : Node} (h : s.txDone m = .next t) (n : Node) :
    t.params n = s.params n := by
  unfold State.txDone at h
  split at h
  · rw [endStep_params h n, ← State.params_sendEnds s m n]
    exact (State.params_congr rfl rfl n).trans
      (State.params_mapNode Controller.txDone_params Extension.endSend_params _ m n)
  · cases h
    rfl

theorem State.params_txError {s t : State} {m : Node} (h : s.txError m = .next t) (n : Node) :
    t.params n = s.params n := by
  unfold State.txError at h
  split at h
  · rw [endStep_params h n, ← State.params_giveUp s m n]
    exact (State.params_congr rfl rfl n).trans
      (State.params_mapNode Controller.txError_params Extension.endSend_params _ m n)
  · cases h
    rfl

theorem State.params_deliverByte {s t : State} {m : Node} (h : s.deliverByte m = .next t) (n : Node) :
    t.params n = s.params n := by
  unfold State.deliverByte at h
  split at h
  · cases h
    rfl
  · split at h
    · cases h
      rfl
    · exact State.params_arrives h n

theorem State.params_corruptByte {s t : State} {m : Node} {b : Byte} (h : s.corruptByte m b = .next t) (n : Node) :
    t.params n = s.params n := by
  unfold State.corruptByte at h
  split at h
  · cases h
    rfl
  · split at h
    · cases h
      rfl
    · exact State.params_arrives h n

theorem State.params_noiseByte {s t : State} {m : Node} {b : Byte} (h : s.noiseByte m b = .next t) (n : Node) :
    t.params n = s.params n := by
  unfold State.noiseByte at h
  split at h
  · exact State.params_receive h n
  · cases h
    rfl

@[simp] theorem State.params_cutFrame (s : State) (m n : Node) : (s.cutFrame m).params n = s.params n := by
  unfold State.cutFrame
  split <;> simp

theorem State.params_memRead {s t : State} {m : Node} {addr : BitVec 12} {size : Nat}
    (h : s.memRead m addr size = .next t) (n : Node) : t.params n = s.params n := by
  unfold State.memRead at h
  split at h
  · cases h
    rfl
  · split at h
    · rw [endStep_params h n]
      exact State.params_congr rfl rfl n
    · cases h
      exact State.params_congr rfl rfl n

theorem State.params_memWrite {s t : State} {m : Node} {addr : BitVec 12} {size : Nat} {v : Word}
    (h : s.memWrite m addr size v = .next t) (n : Node) : t.params n = s.params n := by
  unfold State.memWrite at h
  split at h
  · cases h
    rfl
  · split at h
    · rw [endStep_params h n]
      exact (State.params_congr rfl rfl n).trans (State.params_mapNode (fun c => c.applyWrite_params addr.toNat v)
        (fun e => e.applyWrite_params addr.toNat v) s m n)
    · cases h
      exact State.params_congr rfl rfl n

theorem State.params_tick {s t : State} {m : Node} (h : s.tick m = .next t) (n : Node) : t.params n = s.params n := by
  cases m with
  | controller =>
    simp only [State.tick] at h
    rw [endStep_params h n, ← State.params_silentTick s .controller n]
    exact (State.params_congr rfl rfl n).trans (State.params_mapCtrl (fun c => c.tick_params s.readyLevels) _ n)
  | slot k =>
    simp only [State.tick] at h
    rw [endStep_params h n, ← State.params_silentTick s (.slot k) n]
    refine Eq.trans ?_ (State.params_mapBoard (fun e => e.tick_params (s.selLevel k)) _ k n)
    exact State.params_congr rfl rfl n

theorem State.params_resetNode {s t : State} {m : Node} (h : s.resetNode m = .next t) (n : Node) :
    t.params n = s.params n := by
  unfold State.resetNode at h
  split at h
  · cases h
    rfl
  · rw [endStep_params h n, State.params_driveLines, State.params_resetCore]

@[simp] theorem State.board_lineArrives (s : State) (line : LineName) (j k : Nat) :
    (s.lineArrives line j).board k = s.board k := by
  cases line <;>
  · simp only [State.lineArrives, State.board, State.mapSlot_slots_getElem?]
    split
    · cases s.slots[k]? <;> rfl
    · rfl

@[simp] theorem State.params_lineArrives (s : State) (line : LineName) (j : Nat) (n : Node) :
    (s.lineArrives line j).params n = s.params n := by
  cases n with
  | controller => cases line <;> rfl
  | slot k => simp [State.params]

/-- What stands at a node before and after has the parameters it had. -/
def State.KeepsParams (s t : State) : Prop := ∀ n p q, s.params n = some p → t.params n = some q → q = p

theorem State.KeepsParams.of_eq {s t : State} (h : ∀ n, t.params n = s.params n) : s.KeepsParams t :=
  fun n _ _ hp hq => Option.some.inj (hq.symm.trans ((h n).trans hp))

/-- `attach` puts a board only into a slot that had none. -/
theorem State.keepsParams_attach {s t : State} {k : Nat} {p : Params} (h : s.attach k p = .next t) :
    s.KeepsParams t := by
  unfold State.attach at h
  split at h
  · cases h
    exact .of_eq fun _ => rfl
  next hk =>
    intro n q q' hq hq'
    have hn : n ≠ .slot k := by
      rintro rfl
      exact hk (.inr (.inl (State.present_iff.2 ⟨q, hq⟩)))
    have hsame : t.params n = s.params n :=
      (endStep_params h n).trans ((State.params_congr rfl rfl n).trans (State.params_mapSlot_other s _ hn))
    exact Option.some.inj (hq'.symm.trans (hsame.trans hq))

/-- `detach` leaves the slot empty. -/
theorem State.keepsParams_detach {s t : State} {k : Nat} (h : s.detach k = .next t) : s.KeepsParams t := by
  unfold State.detach at h
  split at h
  · cases h
    exact .of_eq fun _ => rfl
  · cases h
    intro n q q' hq hq'
    replace hq' : ((s.abandon (.slot k)).mapSlot k (fun sl => { sl with board := none, wire := [] })).params n =
        some q' := (State.params_congr rfl rfl n).trans ((State.params_driveLines _ s n).symm.trans hq')
    by_cases hn : n = .slot k
    · subst hn
      simp only [State.params, State.board, State.mapSlot_slots_getElem?, if_true] at hq'
      cases hs : (s.abandon (.slot k)).slots[k]? <;> simp [hs] at hq'
    · rw [State.params_mapSlot_other _ _ hn, State.params_abandon, hq] at hq'
      exact (Option.some.inj hq').symm

theorem State.keepsParams_handle {s t : State} {ev : Event} (h : s.handle ev = .next t) : s.KeepsParams t := by
  cases ev with
  | attach k p => exact State.keepsParams_attach h
  | detach k => exact State.keepsParams_detach h
  | txDone n => exact .of_eq (State.params_txDone h)
  | txError n => exact .of_eq (State.params_txError h)
  | rxByte n b => exact .of_eq (State.params_noiseByte h)
  | deliver n => exact .of_eq (State.params_deliverByte h)
  | corrupt n b => exact .of_eq (State.params_corruptByte h)
  | cut n => cases h; exact .of_eq (State.params_cutFrame s n)
  | noiseEnds n => cases h; exact .of_eq fun m => State.params_setWire s n m _
  | memRead n addr size => exact .of_eq (State.params_memRead h)
  | memWrite n addr size v => exact .of_eq (State.params_memWrite h)
  | strobe => cases h; exact .of_eq (State.params_congr rfl rfl)
  | tick n => exact .of_eq (State.params_tick h)
  | lineArrives line k => cases h; exact .of_eq (State.params_lineArrives s line k)
  | reset n => exact .of_eq (State.params_resetNode h)
  | framer n op => exact .of_eq fun m => ((exec_cases h).params m).trans (State.params_congr rfl rfl m)

/-- Taking the next event changes neither core. -/
theorem State.nextEvent_cores (s : State) :
    s.nextEvent.2.ctrl = s.ctrl ∧ s.nextEvent.2.slots = s.slots := by
  unfold State.nextEvent
  split <;> (unfold State.takeFrom; split <;> exact ⟨rfl, rfl⟩)

theorem step_keepsParams {s t : State} (h : step s = .next t) : s.KeepsParams t := by
  obtain ⟨hc, hs⟩ := State.nextEvent_cores s
  have taken : ∀ n, s.nextEvent.2.params n = s.params n := State.params_congr hc hs
  unfold step State.stepEvent at h
  split at h
  next s1 hev =>
    cases h
    rw [hev] at taken
    exact .of_eq taken
  next ev s1 hev =>
    rw [hev] at taken
    exact fun n p q hp hq => State.keepsParams_handle h n p q ((taken n).trans hp) hq

/-- Settles O59: the parameters are what every step keeps at every node, a board that is there before and after among
them. -/
theorem parametersFixed : Obligations.ParametersFixed := by
  intro s t h
  have keeps := step_keepsParams h
  refine ⟨keeps .controller _ _ rfl rfl, fun k e e' he he' => ?_⟩
  exact keeps (.slot k) e.params e'.params (by simp [State.params, he]) (by simp [State.params, he'])

end Sys2Proof.Machine
end

section
/-! ## The channel (20_memory.md rules R117, R118)

First what the operations of the bus leave of each core and of each wire, then what becomes of one transmission at one
receiver, then the transfer of a frame to the bus. -/

namespace Sys2Proof.Machine

/-! ### Cores and wires -/

/-- A wire sees only the medium's fields. -/
theorem State.wire_congr {s t : State} (hc : t.ctrlWire = s.ctrlWire) (hs : t.slots = s.slots) (n : Node) :
    t.wire n = s.wire n := by
  cases n with
  | controller => exact hc
  | slot k => simp [State.wire, hs]

/-- The framers see only the two cores. -/
theorem State.framer_congr {s t : State} (hc : t.ctrl = s.ctrl) (hs : t.slots = s.slots) (n : Node) :
    t.framer n = s.framer n := by
  cases n with
  | controller => simp [State.framer, hc]
  | slot k => simp [State.framer, State.board, hs]

/-- A node has a framer exactly when it has parameters. -/
theorem State.params_of_framer {s : State} {n : Node} {fr : Framer} (h : s.framer n = some fr) :
    ∃ p, s.params n = some p := by
  cases n with
  | controller => exact ⟨_, rfl⟩
  | slot k =>
    obtain ⟨e, he, -⟩ := Option.map_eq_some_iff.1 h
    exact ⟨e.params, by simp [State.params, he]⟩

/-- The wire of an attached node after it was written. -/
theorem State.wire_setWire_same {s : State} {n : Node} {p : Params} (w : Wire) (h : s.params n = some p) :
    (s.setWire n w).wire n = w := by
  cases n with
  | controller => rfl
  | slot k =>
    obtain ⟨e, he, -⟩ := Option.map_eq_some_iff.1 h
    obtain ⟨sl, hs, -⟩ := State.board_eq_some he
    simp only [State.setWire, State.wire, State.mapSlot_slots_getElem?, if_true, hs]
    rfl

/-- Changing a board changes no wire. -/
@[simp] theorem State.wire_mapBoard (s : State) (k : Nat) (f : Extension → Extension) (n : Node) :
    (s.mapBoard k f).wire n = s.wire n := by
  cases n with
  | controller => rfl
  | slot j =>
    simp only [State.wire, State.mapBoard, State.mapSlot_slots_getElem?]
    split
    · cases s.slots[j]? <;> rfl
    · rfl

@[simp] theorem State.wire_mapNode (s : State) (m : Node) (fc : Controller → Controller) (fe : Extension → Extension)
    (n : Node) : (s.mapNode m fc fe).wire n = s.wire n := by
  cases m with
  | controller => exact State.wire_congr rfl rfl n
  | slot k => exact State.wire_mapBoard s k fe n

@[simp] theorem State.wire_mapFramer (s : State) (m : Node) (f : Framer → Framer) (n : Node) :
    (s.mapFramer m f).wire n = s.wire n :=
  State.wire_mapNode s m _ _ n

@[simp] theorem State.mapFramer_onLine (s : State) (m : Node) (f : Framer → Framer) :
    (s.mapFramer m f).onLine = s.onLine := by
  cases m <;> rfl

/-- A change of a board's slot when the slot has no board. -/
theorem State.mapBoard_of_none {s : State} {k : Nat} (f : Extension → Extension) (h : s.board k = none) :
    s.mapBoard k f = s := by
  have same : s.mapBoard k f = s.mapSlot k id := by
    refine State.mapSlot_congr fun sl hs => ?_
    have hb : sl.board = none := by simpa [State.board, hs] using h
    cases sl
    cases hb
    rfl
  simp [same, State.mapSlot]

theorem State.framer_mapFramer_same (s : State) (n : Node) (f : Framer → Framer) :
    (s.mapFramer n f).framer n = (s.framer n).map f := by
  cases n with
  | controller => rfl
  | slot k =>
    simp only [State.framer, State.mapFramer, State.mapNode, State.board_mapBoard_same]
    cases s.board k <;> rfl

theorem State.framer_mapFramer_other (s : State) {n m : Node} (f : Framer → Framer) (h : m ≠ n) :
    (s.mapFramer n f).framer m = s.framer m := by
  cases n with
  | controller =>
    cases m with
    | controller => exact absurd rfl h
    | slot j => rfl
  | slot k =>
    cases m with
    | controller => rfl
    | slot j =>
      have hj : j ≠ k := fun hk => h (congrArg Node.slot hk)
      simp only [State.framer, State.mapFramer, State.mapNode, State.board_mapBoard_other s _ hj]

/-- A change of a framer that leaves the framer changes nothing. -/
theorem State.mapFramer_eq_self {s : State} {n : Node} {f : Framer → Framer}
    (h : ∀ fr, s.framer n = some fr → f fr = fr) : s.mapFramer n f = s := by
  cases n with
  | controller => simp [State.mapFramer, State.mapNode, State.mapCtrl, h _ rfl]
  | slot k =>
    simp only [State.mapFramer, State.mapNode]
    cases hb : s.board k with
    | none => exact State.mapBoard_of_none _ hb
    | some e =>
      have he : f e.framer = e.framer := h _ (by simp [State.framer, hb])
      rw [State.mapBoard_eq_setBoard _ hb, he]
      exact State.setBoard_self hb

/-! ### One transmission at one receiver -/

theorem Wire.cut_intact (quiet : Nat) {t : Transmission} (w : Wire) (hc : t.carriage = .intact) (hb : t.bytes ≠ []) :
    Wire.cut quiet (t :: w) = { t with bytes := [], carriage := .cut quiet } :: w := by
  simp [Wire.cut, hc, hb]

/-- Nothing comes in from a transmission of which no byte is left. -/
theorem Wire.deliver_of_bytes_nil {t : Transmission} (w : Wire) (hb : t.bytes = []) :
    Wire.deliver (t :: w) = none := by
  simp [Wire.deliver, hb]

theorem Wire.corrupt_of_bytes_nil (b : Byte) {t : Transmission} (w : Wire) (hb : t.bytes = []) :
    Wire.corrupt b (t :: w) = none := by
  simp [Wire.corrupt, hb]

theorem Wire.noisy_cons (t : Transmission) (w : Wire) :
    Wire.noisy (t :: w) = true ↔ t.carriage = .garbled := by
  simp [Wire.noisy]

theorem Wire.noiseEnds_garbled {t : Transmission} (w : Wire) (hc : t.carriage = .garbled) :
    Wire.noiseEnds (t :: w) = w := by
  simp [Wire.noiseEnds, hc]

theorem Wire.noiseEnds_eq_self {w : Wire} (h : ∀ t u, w = t :: u → t.carriage ≠ .garbled) :
    Wire.noiseEnds w = w := by
  cases w with
  | nil => rfl
  | cons t u => simp [Wire.noiseEnds, h t u rfl]

/-- The end of a transmission changes no wire with nothing of its sender in progress. -/
theorem Wire.endOf_eq_self {n : Node} {w : Wire} (h : ∀ u ∈ w, u.sender ≠ n ∨ u.ended = true) :
    Wire.endOf n w = w := by
  refine (List.map_congr_left fun u hu => ?_).trans (List.map_id w)
  split
  next hs =>
    have ended : u.ended = true := (h u hu).resolve_left (not_not_intro hs)
    cases u
    cases ended
    rfl
  next => rfl

theorem Wire.giveUp_eq_self {n : Node} {w : Wire} (keep quiet : Nat) (h : ∀ u ∈ w, u.sender ≠ n ∨ u.ended = true) :
    Wire.giveUp n keep quiet w = w := by
  have kept : w.map (fun t => if t.sender = n ∧ t.ended = false then t.giveUp keep quiet else t) = w := by
    refine (List.map_congr_left fun u hu => if_neg fun ⟨hs, he⟩ => ?_).trans (List.map_id w)
    rcases h u hu with h' | h'
    · exact h' hs
    · rw [h'] at he
      cases he
  rw [Wire.giveUp, kept, Wire.endOf_eq_self h]

theorem Wire.endOf_concat {n : Node} {w : Wire} {t : Transmission} (h : ∀ u ∈ w, u.sender ≠ n ∨ u.ended = true)
    (ht : t.sender = n) : Wire.endOf n (w ++ [t]) = w ++ [{ t with ended := true }] := by
  have := Wire.endOf_eq_self h
  unfold Wire.endOf at *
  simp [this, ht]

theorem Wire.giveUp_concat {n : Node} {w : Wire} {t : Transmission} (keep quiet : Nat)
    (h : ∀ u ∈ w, u.sender ≠ n ∨ u.ended = true) (ht : t.sender = n) (he : t.ended = false) :
    Wire.giveUp n keep quiet (w ++ [t]) = w ++ [{ t.giveUp keep quiet with ended := true }] := by
  have sender : (t.giveUp keep quiet).sender = n := by
    unfold Transmission.giveUp
    split <;> exact ht
  have := Wire.giveUp_eq_self keep quiet h
  unfold Wire.giveUp Wire.endOf at *
  simp [this, ht, he, sender]

/-- A frame that is given up before it was received whole is cut, and fewer bytes are left of it. -/
theorem Transmission.giveUp_cut (keep quiet : Nat) {t : Transmission} (hb : t.bytes ≠ [])
    (hc : t.carriage = .intact ∨ t.carriage = .damaged) :
    ∃ j, j < t.bytes.length ∧ t.giveUp keep quiet = { t with bytes := t.bytes.take j, carriage := .cut quiet } :=
  ⟨keep % t.bytes.length, Nat.mod_lt _ (List.length_pos_of_ne_nil hb), if_pos ⟨hc, hb⟩⟩

/-- Nothing changes of one that was received whole, is overlapped or is cut already. -/
theorem Transmission.giveUp_eq_self (keep quiet : Nat) {t : Transmission}
    (h : t.bytes = [] ∨ t.carriage = .garbled ∨ ∃ q, t.carriage = .cut q) : t.giveUp keep quiet = t := by
  refine if_neg fun ⟨hc, hb⟩ => ?_
  rcases h with h | h | ⟨q, h⟩
  · exact hb h
  · simp [h] at hc
  · simp [h] at hc

/-! ### The transfer of a frame to the bus (40_framer_crc.md rule R177) -/

/-- The framer once the bus has taken over the frame it handed to the Transport. -/
def Framer.handedOver (fr : Framer) : Framer := { fr with outbox := none }

theorem State.transmit_of_outbox {s : State} {n : Node} {fr : Framer} {f : List Byte} (h : s.framer n = some fr)
    (ho : fr.outbox = some f) : s.transmit n = (s.mapFramer n Framer.handedOver).hear n f := by
  simp only [State.transmit, h, Option.bind_some, ho]
  rfl

theorem State.transmit_of_empty {s : State} {n : Node} (h : ∀ fr, s.framer n = some fr → fr.outbox = none) :
    s.transmit n = s := by
  have nothing : (s.framer n).bind (·.outbox) = none := Option.bind_eq_none_iff.2 h
  simp only [State.transmit, nothing]

/-- With an empty outbox there is nothing to take over. -/
theorem State.mapFramer_handedOver_of_empty {s : State} {n : Node} (h : ∀ fr, s.framer n = some fr → fr.outbox = none) :
    s.mapFramer n Framer.handedOver = s :=
  State.mapFramer_eq_self fun fr hfr => by
    have ho := h fr hfr
    cases fr
    cases ho
    rfl

/-- In every case the outbox is emptied, and at most one frame put on the bus. -/
theorem State.transmit_cases (s : State) (n : Node) :
    (∃ f, s.transmit n = (s.mapFramer n Framer.handedOver).hear n f) ∨
    s.transmit n = s.mapFramer n Framer.handedOver := by
  by_cases h : ∀ fr, s.framer n = some fr → fr.outbox = none
  · exact .inr ((State.transmit_of_empty h).trans (State.mapFramer_handedOver_of_empty h).symm)
  · simp only [not_forall] at h
    obtain ⟨fr, hfr, ho⟩ := h
    obtain ⟨f, hf⟩ := Option.ne_none_iff_exists'.1 ho
    exact .inl ⟨f, State.transmit_of_outbox hfr hf⟩

@[simp] theorem State.others_mapFramer (s : State) (m : Node) (f : Framer → Framer) (n : Node) :
    (s.mapFramer m f).others n = s.others n := by
  simp [State.others]

theorem State.mem_others {s : State} {n m : Node} : m ∈ s.others n ↔ m ∈ s.onLine ∧ m ≠ n := by
  simp [State.others]

@[simp] theorem State.framer_hear (s : State) (m : Node) (f : List Byte) (n : Node) :
    (s.hear m f).framer n = s.framer n := by
  rw [State.hear, ← State.framer_mapWires s _ n]
  exact State.framer_congr rfl rfl n

theorem State.mem_onLine_hear {s : State} {n m : Node} {f : List Byte} :
    m ∈ (s.hear n f).onLine ↔ m = n ∨ m ∈ s.onLine := by
  by_cases h : m = n <;> simp [State.hear, State.mem_others, h]

@[simp] theorem State.mapFramer_slots_length (s : State) (n : Node) (f : Framer → Framer) :
    (s.mapFramer n f).slots.length = s.slots.length := by
  cases n with
  | controller => rfl
  | slot k => exact State.mapSlot_slots_length s k _

@[simp] theorem State.hear_slots_length (s : State) (n : Node) (f : List Byte) :
    (s.hear n f).slots.length = s.slots.length :=
  mapSlotWires_length _ 0 s.slots

/-- What is on its way to a node once the frame `f` of `n` was taken over. -/
theorem State.wire_transmit {s : State} {n m : Node} {fr fm : Framer} {f : List Byte} (h : s.framer n = some fr)
    (ho : fr.outbox = some f) (hm : s.framer m = some fm) :
    (s.transmit n).wire m =
      if m = n then Wire.garble (s.others n) (s.wire m) else Wire.hear n f (s.others n) (s.wire m) := by
  obtain ⟨p, hp⟩ := State.params_of_framer hm
  rw [State.transmit_of_outbox h ho, State.wire_hear n f ((State.params_mapFramer s n m _).trans hp)]
  simp

/-- The transfer leaves every other core. -/
theorem State.framer_transmit_other {s : State} {n m : Node} {fr : Framer} {f : List Byte} (h : s.framer n = some fr)
    (ho : fr.outbox = some f) (hm : m ≠ n) : (s.transmit n).framer m = s.framer m := by
  rw [State.transmit_of_outbox h ho, State.framer_hear, State.framer_mapFramer_other s _ hm]

/-- With no other transmission on the line a frame comes in unchanged behind what is on its way. -/
theorem Wire.hear_nil (n : Node) (f : List Byte) (w : Wire) :
    Wire.hear n f [] w = w ++ [{ sender := n, bytes := f, carriage := .intact, ended := false }] := by
  simp [Wire.hear]

/-- With others on the line it is garbled, and so are those. -/
theorem Wire.hear_overlapped (n : Node) (f : List Byte) {line : List Node} (h : line ≠ []) (w : Wire) :
    Wire.hear n f line w =
      Wire.garble line w ++ [{ sender := n, bytes := f, carriage := .garbled, ended := false }] := by
  simp [Wire.hear, h]

/-- What a slot is after the transfer: only the framer of the sender's board and the wire can differ. -/
theorem State.transmit_slot (s : State) (n : Node) {k : Nat} {sl : Slot} (h : s.slots[k]? = some sl) :
    ∃ w, (s.transmit n).slots[k]? = some { sl with
      board := if n = .slot k then sl.board.map (fun e : Extension => { e with framer := e.framer.handedOver })
        else sl.board
      wire := w } := by
  have cleared : (s.mapFramer n Framer.handedOver).slots[k]? = some { sl with
      board := if n = .slot k then sl.board.map (fun e : Extension => { e with framer := e.framer.handedOver })
        else sl.board } := by
    cases n with
    | controller => simpa [State.mapFramer, State.mapNode] using h
    | slot j =>
      simp only [State.mapFramer, State.mapNode, State.mapBoard, State.mapSlot_slots_getElem?, h, Node.slot.injEq]
      split <;> rfl
  rcases State.transmit_cases s n with ⟨f, ht⟩ | ht
  · rw [ht, State.hear, State.mapWires_slots, mapSlotWires_getElem?, cleared, Option.map_some]
    unfold Slot.mapWire
    split <;> exact ⟨_, rfl⟩
  · exact ⟨sl.wire, ht ▸ cleared⟩

end Sys2Proof.Machine
end

section
/-! ## What a frame on its way can come to -/

namespace Sys2Proof.Machine

/-- The transfer changes nothing but the sender's outbox, the wires and the line. -/
theorem State.transmit_frame (s : State) (n : Node) :
    s.transmit n = { s with
      ctrl := (s.transmit n).ctrl, slots := (s.transmit n).slots, ctrlWire := (s.transmit n).ctrlWire,
      onLine := (s.transmit n).onLine } ∧
    (s.transmit n).ctrl =
      if n = .controller then { s.ctrl with framer := s.ctrl.framer.handedOver } else s.ctrl := by
  rcases State.transmit_cases s n with ⟨f, ht⟩ | ht <;> rw [ht] <;> cases n <;> exact ⟨rfl, rfl⟩

theorem State.cutFrame_eq {s : State} {n : Node} {p : Params} (h : s.params n = some p) :
    s.cutFrame n = s.setWire n (Wire.cut p.tGap.toNat (s.wire n)) := by
  simp only [State.cutFrame, h]

/-- The medium brings no byte of a transmission of which none is left, and no other byte beside it. -/
theorem State.no_byte_of_cut {s : State} {n : Node} {t : Transmission} {w : Wire} {q : Nat} (h : s.wire n = t :: w)
    (hc : t.carriage = .cut q) (hb : t.bytes = []) {ev : Event} {b : Byte}
    (hev : ev = .rxByte n b ∨ ev = .deliver n ∨ ev = .corrupt n b) : s.handle ev = .next s := by
  rcases hev with rfl | rfl | rfl
  · have quiet : ¬Wire.noisy (s.wire n) = true := by
      rw [h, Wire.noisy_cons, hc]
      exact Carriage.noConfusion
    exact if_neg quiet
  · simp [State.handle, State.deliverByte, h, Wire.deliver_of_bytes_nil w hb]
  · simp [State.handle, State.corruptByte, h, Wire.corrupt_of_bytes_nil b w hb]

theorem State.mem_onLine_leaveLine {s : State} {n m : Node} : m ∈ (s.leaveLine n).onLine ↔ m ∈ s.onLine ∧ m ≠ n := by
  simp

/-- Settles O16: the channel, from the transfer of a frame to the bus to what becomes of it at each receiver. -/
theorem transmitReachesOthers : Obligations.TransmitReachesOthers := by
  refine ⟨?transfer, ?frame, fun fr f => rfl, ?cut, ?silence, ?noise, ?ends, ?others, ?line⟩
  case transfer =>
    intro s n fr f h ho
    refine ⟨fun alone => ?_, fun ⟨m, hm, hmn⟩ => ?_, fun m => ?_, ?_, ?_⟩
    · have none_else : s.others n = [] :=
        List.eq_nil_iff_forall_not_mem.2 fun m hm => (State.mem_others.1 hm).2 (alone m (State.mem_others.1 hm).1)
      refine ⟨fun m fm hmn hm => ⟨?_, (State.framer_transmit_other h ho hmn).trans hm⟩, ?_⟩
      · rw [State.wire_transmit h ho hm, if_neg hmn, none_else, Wire.hear_nil]
      · rw [State.wire_transmit h ho h, if_pos rfl, none_else, Wire.garble_nil]
    · have overlapped : s.others n ≠ [] := List.ne_nil_of_mem (State.mem_others.2 ⟨hm, hmn⟩)
      have garbled : ∀ w : Wire, Wire.garble (s.others n) w = w.map fun t =>
          if t.ended = false ∧ t.sender ∈ s.onLine ∧ t.sender ≠ n then { t with carriage := .garbled } else t := by
        intro w
        simp only [Wire.garble, State.mem_others]
      refine ⟨fun m fm hmn hm => ⟨?_, (State.framer_transmit_other h ho hmn).trans hm⟩, ?_⟩
      · rw [State.wire_transmit h ho hm, if_neg hmn, Wire.hear_overlapped n f overlapped, garbled]
      · rw [State.wire_transmit h ho h, if_pos rfl, garbled]
    · rw [State.transmit_of_outbox h ho, State.mem_onLine_hear, State.mapFramer_onLine]
    · rw [State.transmit_of_outbox h ho, State.framer_hear, State.framer_mapFramer_same, h]
      rfl
    · rw [State.transmit_of_outbox h ho, State.hear_slots_length, State.mapFramer_slots_length]
  case frame =>
    rintro s n _ rfl
    refine ⟨fun fr h ho => ?_, fun h => ?_, (State.transmit_frame s n).1, (State.transmit_frame s n).2,
      fun k sl hs => State.transmit_slot s n hs⟩
    · exact State.transmit_of_empty fun fr' h' => by rwa [← Option.some.inj (h.symm.trans h')]
    · exact State.transmit_of_empty fun fr h' => by simp [h] at h'
  case cut =>
    intro s n p t w rest hin hp hw hc hb
    have hw' : State.wire { s with inputs := rest } n = t :: w := (State.wire_congr rfl rfl n).trans hw
    have hp' : State.params { s with inputs := rest } n = some p := (State.params_congr rfl rfl n).trans hp
    rw [step_of_single hin, State.handle, State.cutFrame_eq hp', hw', Wire.cut_intact _ w hc hb]
  case silence =>
    intro s n p t w quiet hp hw hc hb
    refine ⟨fun ev b rest hin hev => ?_, ?_⟩
    · rw [step_of_single hin]
      refine State.no_byte_of_cut (w := w) ?_ hc hb hev
      exact (State.wire_congr rfl rfl n).trans hw
    · rw [State.silentTick, State.wire_setWire_same _ hp, hw, Wire.silentTick_cut t w quiet hc hb]
  case noise =>
    intro s n rest hin
    have same : State.wire { s with inputs := rest } n = s.wire n := State.wire_congr rfl rfl n
    refine ⟨fun t w hw hc => ?_, fun hq => ?_⟩
    · rw [step_of_single hin, State.handle, same, hw, Wire.noiseEnds_garbled w hc]
    · rw [step_of_single hin, State.handle, same, Wire.noiseEnds_eq_self hq, ← same, State.setWire_self]
  case ends =>
    intro s n m p t w hp hw hothers ht he
    refine ⟨?_, fun hb hc => ?_, fun hdone => ?_⟩
    · rw [State.wire_sendEnds n hp, hw, Wire.endOf_concat hothers ht]
    · obtain ⟨j, hj, hcut⟩ := Transmission.giveUp_cut (Config.abandonedLength s.draws (nodeIndex m)) p.tGap.toNat hb hc
      refine ⟨j, hj, ?_⟩
      rw [State.wire_giveUp n hp, hw, Wire.giveUp_concat _ _ hothers ht he, hcut]
    · rw [State.wire_giveUp n hp, hw, Wire.giveUp_concat _ _ hothers ht he, Transmission.giveUp_eq_self _ _ hdone]
  case others =>
    intro s n m p hp hothers
    rw [State.wire_sendEnds n hp, State.wire_giveUp n hp]
    exact ⟨Wire.endOf_eq_self hothers, Wire.giveUp_eq_self _ _ hothers⟩
  case line =>
    exact fun s n m => ⟨State.mem_onLine_leaveLine, State.mem_onLine_leaveLine⟩

end Sys2Proof.Machine
end

section
/-! ## One step, by the event it takes (00_scope.md rule R14) -/

namespace Sys2Proof.Machine

/-! ### Which event is taken -/

/-- A step with an instant of events waiting takes the first one of the lowest rank (60_exceptions.md rule R372). -/
theorem step_of_instant {s : State} {pre post : List Event} {ev : Event} {rest : List (List Event)}
    (h : s.inputs = (pre ++ ev :: post) :: rest) (hpre : ∀ e ∈ pre, eventRank ev < eventRank e)
    (hpost : ∀ e ∈ post, eventRank ev ≤ eventRank e) :
    step s = State.handle { s with inputs := pushInstant (pre ++ post) rest } ev := by
  simp only [step, State.stepEvent, State.nextEvent, h, State.takeFrom, takeFirst_lowest hpre hpost]

theorem pushInstant_of_ne_nil {es : List Event} (h : es ≠ []) (rest : List (List Event)) :
    pushInstant es rest = es :: rest := by
  cases es with
  | nil => exact absurd rfl h
  | cons e es => rfl

theorem step_of_empty_instant {s : State} {rest : List (List Event)} (h : s.inputs = [] :: rest) :
    step s = .next { s with inputs := rest } := by
  simp only [step, State.stepEvent, State.nextEvent, h, State.takeFrom, takeFirst]

/-- What an instant gives does not depend on what else waited. -/
theorem State.takeFrom_inputs (s : State) (es : List Event) (rest ins : List (List Event)) :
    State.takeFrom { s with inputs := ins } es rest = s.takeFrom es rest := by
  unfold State.takeFrom
  split <;> rfl

/-- With no instant waiting the environment gives one. -/
theorem step_of_no_inputs {s : State} (h : s.inputs = []) :
    step s = step { s with inputs := [Config.environment s.instant], instant := s.instant + 1 } := by
  have same : s.nextEvent =
      State.nextEvent { s with inputs := [Config.environment s.instant], instant := s.instant + 1 } := by
    simp only [State.nextEvent, h]
    exact (State.takeFrom_inputs { s with instant := s.instant + 1 } _ [] _).symm
  unfold step State.stepEvent
  rw [same]

/-! ### The end of a step -/

theorem endStep_controller {before t u : State} (h : t.arbitrate = .next u) :
    endStep before .controller (.next t) = .next ((u.transmit .controller).driveLines before) := by
  simp only [endStep, if_true, h]

theorem endStep_controller_refused {before t : State} {r : Refusal} (h : t.arbitrate = .refused r) :
    endStep before .controller (.next t) = .refused r := by
  simp only [endStep, if_true, h]

theorem endStep_slot (before t : State) (k : Nat) :
    endStep before (.slot k) (.next t) = .next ((t.transmit (.slot k)).driveLines before) := by
  simp only [endStep, reduceCtorEq, if_false]

/-! ### Received bytes (40_framer_crc.md rules R178, R179) -/

@[simp] theorem State.framer_received (s : State) (n m : Node) (t : Transmission) (bs : List Byte) (w : Wire) :
    (s.received n t bs w).framer m = s.framer m := by
  rw [← State.framer_setWire s n m w]
  exact State.framer_congr rfl rfl m

@[simp] theorem State.params_received (s : State) (n m : Node) (t : Transmission) (bs : List Byte) (w : Wire) :
    (s.received n t bs w).params m = s.params m := by
  rw [← State.params_setWire s n m w]
  exact State.params_congr rfl rfl m

/-- A byte on its way changes no core before it is received. -/
theorem State.brings.cores {s s' : State} {n : Node} {b : Byte} {ev : Event} (h : s.brings n b ev s') (m : Node) :
    s'.framer m = s.framer m ∧ s'.params m = s.params m := by
  cases h with
  | noise => exact ⟨rfl, rfl⟩
  | overlapped => exact ⟨rfl, rfl⟩
  | next => simp
  | changed => simp

/-- Which events wait does not matter to the medium. -/
theorem State.brings.with_inputs {s s' : State} {n : Node} {b : Byte} {ev : Event} (h : s.brings n b ev s')
    (ins : List (List Event)) : State.brings { s with inputs := ins } n b ev { s' with inputs := ins } := by
  have wire : State.wire { s with inputs := ins } n = s.wire n := State.wire_congr rfl rfl n
  have received : ∀ t bs w, State.received { s with inputs := ins } n t bs w =
      { s.received n t bs w with inputs := ins } := by
    intro t bs w
    cases n <;> rfl
  cases h with
  | noise hw => exact .noise (wire.trans hw)
  | overlapped hw hc => exact .overlapped (wire.trans hw) hc
  | next hw hb hc => exact received _ _ _ ▸ .next (wire.trans hw) hb hc
  | changed hw hb hc => exact received _ _ _ ▸ .changed (wire.trans hw) hb hc

theorem State.busy_with_inputs (s : State) (ins : List (List Event)) (n : Node) :
    State.busy { s with inputs := ins } n = s.busy n := by
  simp only [State.busy, State.framer_congr (s := s) (t := { s with inputs := ins }) rfl rfl n]

/-- However the medium brings a byte to a node that does not transmit, the node receives it. -/
theorem State.handle_of_brings {s s' : State} {n : Node} {b : Byte} {ev : Event} (h : s.brings n b ev s')
    (hbusy : s.busy n = false) : s.handle ev = s'.receive n b := by
  have free : ¬s.busy n = true := by simp [hbusy]
  cases h with
  | noise hw => exact if_pos (by simp [hw, Wire.noisy])
  | overlapped hw hc => exact if_pos (by rw [hw, Wire.noisy_cons]; exact hc)
  | @next t w bs hw hb hc =>
    have delivered : Wire.deliver (s.wire n) = some (b, Transmission.before { t with bytes := bs } w) :=
      Wire.deliver_eq_some.2 ⟨t, w, bs, hw, hb, hc, rfl⟩
    simp only [State.handle, State.deliverByte, if_neg free, delivered, State.arrives,
      State.takeByte_eq_received hw hb]
  | @changed t w b0 bs hw hb hc =>
    have corrupted : Wire.corrupt b (s.wire n) = some (Transmission.before
        { t with bytes := bs, carriage := if b = b0 then t.carriage else .damaged } w) := by
      simp only [hw, Wire.corrupt, hb, if_pos hc]
    simp only [State.handle, State.corruptByte, if_neg free, corrupted, State.arrives,
      State.takeByte_eq_received hw hb]

theorem step_of_brings {s s' : State} {n : Node} {b : Byte} {ev : Event} {rest : List (List Event)}
    (hin : s.inputs = [ev] :: rest) (h : s.brings n b ev s') (hbusy : s.busy n = false) :
    step s = State.receive { s' with inputs := rest } n b := by
  rw [step_of_single hin]
  exact State.handle_of_brings (h.with_inputs rest) ((State.busy_with_inputs s rest n).trans hbusy)

/-- The byte that completes a frame. -/
theorem State.receive_last {s : State} {n : Node} {fr : Framer} {p : Params} (b : Byte) (hf : s.framer n = some fr)
    (hp : s.params n = some p) (hbusy : fr.txBusy = false) (hcount : fr.rxCount = 255) :
    s.receive n b = endStep s n (State.deliverFrame
      { s.mapFramer n (fun _ =>
          { fr with rxBuf := Memory.write fr.rxBuf 255 b, rxCount := 0, gapCount := 0 }) with active := n }
      p (Memory.readBytes (Memory.write fr.rxBuf 255 b) 0 256)) := by
  rcases Framer.rxByte_cases fr b with ⟨h, -⟩ | ⟨-, h, -⟩ | ⟨-, -, h⟩
  · rw [hbusy] at h
    cases h
  · exact absurd hcount h
  · simp only [State.receive, hf, hp, hbusy, h, Bool.false_eq_true, if_false]

theorem State.deliverFrame_ok {s : State} {p : Params} {bytes : List Byte} {i : Instr}
    (h : decode p (.frame bytes) = .ok i) : s.deliverFrame p bytes = exec i s := by
  rw [decode] at h
  simp only [State.deliverFrame, h]

theorem State.deliverFrame_error {s : State} {p : Params} {bytes : List Byte} {reason : DecodeError}
    (h : decode p (.frame bytes) = .error reason) : s.deliverFrame p bytes = .next (s.decodeFailed reason) := by
  rw [decode] at h
  simp only [State.deliverFrame, h]

/-! ### Commands and host accesses -/

/-- A free Controller with no slot pending runs the latched command (42_controller_registration.md rule R260). -/
theorem State.arbitrate_command {s : State} (hidle : s.ctrl.cst = .idle) (hpend : s.ctrl.lowestPending = none)
    (hvalid : s.ctrl.cmdValid = true) :
    s.arbitrate = exec (decodeCommand s.ctrl.cmdLatched)
      { s.mapCtrl (fun c => c.takeCommand) with active := .controller } := by
  simp only [State.arbitrate, hidle, ne_eq, not_true_eq_false, if_false, hpend, hvalid, if_true]

/-- A CMD write to a Controller that is not busy is latched (43_controller_commands.md rule R290). -/
theorem State.memWrite_cmd {s : State} (w : Word) (h : s.ctrl.busy = false) :
    s.memWrite .controller 0x008 4 w = endStep s .controller (.next { s with
      ctrl := { s.ctrl with cmd := w, cmdLatched := w, cmdValid := true, done := false }
      reply := { error := false, data := 0 }
      active := .controller }) := by
  have latched : s.ctrl.applyWrite 0x008 w =
      { s.ctrl with cmd := w, cmdLatched := w, cmdValid := true, done := false } := by
    simp [Controller.applyWrite, Controller.issueCommand, h]
  rw [← latched]
  rfl

/-! ### Ticks and the ends of a transmission -/

theorem State.tick_slot {s : State} {k : Nat} {e : Extension} (h : s.board k = some e) :
    s.tick (.slot k) = endStep s (.slot k) (.next
      { (s.silentTick (.slot k)).setBoard k (e.tick (s.selLevel k)) with active := .slot k }) := by
  have board : (s.silentTick (.slot k)).board k = some e := (State.board_setWire s _ _ k).trans h
  simp only [State.tick, State.mapBoard_eq_setBoard _ board]

/-- The ticks of a strobe: one for every core (60_exceptions.md rule R385). -/
theorem State.mem_strobe_ticks {s : State} {ev : Event} :
    ev ∈ s.cores.map Event.tick ↔ ∃ n, (s.params n).isSome = true ∧ ev = .tick n := by
  simp only [List.mem_map, State.mem_cores, eq_comm]

theorem State.nodup_strobe_ticks (s : State) : (s.cores.map Event.tick).Nodup :=
  s.nodup_cores.map fun _ _ h => Event.tick.inj h

theorem State.busy_slot {s : State} {k : Nat} {e : Extension} (h : s.board k = some e) :
    s.busy (.slot k) = e.framer.txBusy := by
  simp [State.busy, State.framer, h]

theorem State.txDone_of_busy {s : State} {n : Node} (h : s.busy n = true) :
    s.txDone n = endStep s n (.next
      { (s.sendEnds n).mapNode n Controller.txDone Extension.endSend with active := n }) :=
  if_pos h

theorem State.txError_of_busy {s : State} {n : Node} (h : s.busy n = true) :
    s.txError n = endStep s n (.next { (s.giveUp n).mapNode n Controller.txError Extension.endSend with
      active := n, draws := s.draws + 1 }) :=
  if_pos h

/-- No transmission is in progress that could end (40_framer_crc.md rule R177). -/
theorem State.end_of_free {s : State} {n : Node} (h : s.busy n = false) :
    s.txDone n = .next s ∧ s.txError n = .next s := by
  simp [State.txDone, State.txError, h]

@[simp] theorem State.board_sendEnds (s : State) (n : Node) (k : Nat) : (s.sendEnds n).board k = s.board k := by
  simp [State.sendEnds]

@[simp] theorem State.board_giveUp (s : State) (n : Node) (k : Nat) : (s.giveUp n).board k = s.board k := by
  simp [State.giveUp]

/-- What ends at a board: its `tx_busy` is cleared (41_extension_fsm.md rule R234). -/
theorem State.mapNode_endSend {s : State} {k : Nat} {e : Extension} (fc : Controller → Controller)
    (h : s.board k = some e) : s.mapNode (.slot k) fc Extension.endSend =
      s.setBoard k { e with framer := { e.framer with txBusy := false } } :=
  State.mapBoard_eq_setBoard _ h

theorem State.txDone_slot {s : State} {k : Nat} {e : Extension} (h : s.board k = some e)
    (hb : e.framer.txBusy = true) : s.txDone (.slot k) = endStep s (.slot k) (.next
      { (s.sendEnds (.slot k)).setBoard k { e with framer := { e.framer with txBusy := false } } with
        active := .slot k }) := by
  rw [State.txDone_of_busy ((State.busy_slot h).trans hb),
    State.mapNode_endSend _ ((State.board_sendEnds s _ k).trans h)]

theorem State.txError_slot {s : State} {k : Nat} {e : Extension} (h : s.board k = some e)
    (hb : e.framer.txBusy = true) : s.txError (.slot k) = endStep s (.slot k) (.next
      { (s.giveUp (.slot k)).setBoard k { e with framer := { e.framer with txBusy := false } } with
        active := .slot k, draws := s.draws + 1 }) := by
  rw [State.txError_of_busy ((State.busy_slot h).trans hb),
    State.mapNode_endSend _ ((State.board_giveUp s _ k).trans h)]

end Sys2Proof.Machine
end

section
/-! ## What one step runs, assembled -/

namespace Sys2Proof.Machine

/-- Settles O11: clause by clause, the event that is taken and what it runs. -/
theorem stepRunsInstruction : Obligations.StepRunsInstruction := by
  refine ⟨?lastByte, fun s hidle hpend hvalid => State.arbitrate_command hidle hpend hvalid, ?cmdWrite, ?framerCall,
    ?ticks, ?ends, ?order, ?ranks, fun s rest h => step_of_empty_instant h, fun s h => step_of_no_inputs h, ?endOfStep⟩
  case lastByte =>
    intro s s' n b ev rest fr p hin hbrings hf hp hbusy hcount
    obtain ⟨hf', hp'⟩ := hbrings.cores n
    have received := State.receive_last (s := { s' with inputs := rest }) b
      ((State.framer_congr rfl rfl n).trans (hf'.trans hf)) ((State.params_congr rfl rfl n).trans (hp'.trans hp))
      hbusy hcount
    have free : s.busy n = false := by simp [State.busy, hf, hbusy]
    refine ⟨fun i hi => ?_, fun reason hr => ?_⟩
    · rw [step_of_brings hin hbrings free, received, State.deliverFrame_ok hi]
    · rw [step_of_brings hin hbrings free, received, State.deliverFrame_error hr]
  case cmdWrite =>
    intro s w rest hin hbusy
    rw [step_of_single hin]
    exact State.memWrite_cmd w hbusy
  case framerCall =>
    intro s n op rest hin
    rw [step_of_single hin]
    rfl
  case ticks =>
    intro s rest
    refine ⟨fun hin => ?_, fun k e hin he => ?_, fun hin => ?_⟩
    · rw [step_of_single hin]
      rfl
    · rw [step_of_single hin]
      exact State.tick_slot he
    · rw [step_of_single hin]
      exact ⟨s.cores.map .tick, rfl, s.nodup_strobe_ticks, fun ev => State.mem_strobe_ticks⟩
  case ends =>
    intro s rest
    refine ⟨fun hin hb => ?_, fun k e hin he hb => ?_, fun hin hb => ?_, fun k e hin he hb => ?_, fun n hb hin => ?_⟩
    · rw [step_of_single hin]
      exact State.txDone_of_busy hb
    · rw [step_of_single hin]
      exact State.txDone_slot he hb
    · rw [step_of_single hin]
      exact State.txError_of_busy hb
    · rw [step_of_single hin]
      exact State.txError_slot he hb
    · have free := (State.busy_with_inputs s rest n).trans hb
      rcases hin with hin | hin <;> rw [step_of_single hin]
      · exact (State.end_of_free free).1
      · exact (State.end_of_free free).2
  case order =>
    intro s pre post ev rest hin hne hpre hpost
    rw [step_of_instant hin hpre hpost, pushInstant_of_ne_nil hne, step_of_single rfl]
  case ranks =>
    simp [eventRank]
  case endOfStep =>
    exact fun before t => ⟨fun u h => endStep_controller h, fun r h => endStep_controller_refused h,
      fun k => endStep_slot before t k, fun n r => rfl⟩

end Sys2Proof.Machine
end

section
/-! ## The flags the host acknowledges (10_state.md rules R44, R62, 60_exceptions.md rule R367) -/

namespace Sys2Proof.Machine

/-! ### Bits -/

/-- A word with the layout of STATUS: of the flags in bits 4..1 those that `v` sets go, every bit around them stays. -/
theorem append_flags_and_not (upper : BitVec 24) (active : BitVec 3) (flags : BitVec 4) (busy : BitVec 1) (v : Word) :
    (upper ++ (active ++ flags ++ busy) : Word) &&& ~~~(v &&& 0x0000001E#32) =
      upper ++ (active ++ (flags &&& ~~~v.extractLsb' 1 4) ++ busy) := by
  refine BitVec.eq_of_getLsbD_eq fun i hi => ?_
  simp only [BitVec.getLsbD_and, BitVec.getLsbD_append, BitVec.getLsbD_not, BitVec.getLsbD_extractLsb']
  interval_cases i <;> simp

/-- A word with the layout of EVENTS: the bits above the four flags are 0 and stay so. -/
theorem setWidth_and_not (flags : BitVec 4) (v : Word) :
    (flags &&& ~~~v.setWidth 4).setWidth 32 = flags.setWidth 32 &&& ~~~v := by
  refine BitVec.eq_of_getLsbD_eq fun i hi => ?_
  by_cases h : i < 4
  · simp [h, hi]
  · have above : flags.getLsbD i = false := BitVec.getLsbD_of_ge flags i (by omega)
    simp [above]

/-! ### STATUS of the Controller -/

theorem Controller.applyWrite_status (c : Controller) (v : Word) : c.applyWrite 0x00C v = c.acknowledge v := rfl

theorem Controller.wordAt_status (c : Controller) : c.wordAt 0x00C = c.statusWord := rfl

theorem Controller.flags_acknowledge (c : Controller) (v : Word) :
    (c.acknowledge v).flags = c.flags &&& ~~~v.extractLsb' 1 4 := by
  refine BitVec.eq_of_getLsbD_eq fun i hi => ?_
  simp only [Controller.flags, BitVec.getLsbD_and, BitVec.getLsbD_append, BitVec.getLsbD_not,
    BitVec.getLsbD_extractLsb']
  interval_cases i <;> simp

theorem Controller.statusWord_acknowledge (c : Controller) (v : Word) :
    (c.acknowledge v).statusWord = c.statusWord &&& ~~~(v &&& 0x0000001E#32) := by
  rw [Controller.statusWord, c.flags_acknowledge]
  exact (append_flags_and_not _ _ _ _ v).symm

/-- Only STATUS shows the flags: every other word reads a field that the acknowledgement leaves. -/
theorem Controller.wordAt_acknowledge_of_ne (c : Controller) (v : Word) {a : Nat} (h : a ≠ 0x00C) :
    (c.acknowledge v).wordAt a = c.wordAt a := by
  rw [Controller.wordAt, Controller.wordAt, if_neg h, if_neg h]
  rfl

/-! ### EVENTS of a board -/

theorem Extension.applyWrite_events (e : Extension) (v : Word) : e.applyWrite 0x008 v = e.acknowledge v := rfl

theorem Extension.wordAt_events (e : Extension) : e.wordAt 0x008 = e.events.setWidth 32 := rfl

/-- Only EVENTS shows the flags: every other word reads a field that the acknowledgement leaves. -/
theorem Extension.wordAt_acknowledge_of_ne (e : Extension) (v : Word) {a : Nat} (h : a ≠ 0x008) :
    (e.acknowledge v).wordAt a = e.wordAt a := by
  rw [Extension.wordAt, Extension.wordAt, if_neg h, if_neg h]
  rfl

/-- Settles O52: both registers clear exactly the flags written as 1, and every other word stays. -/
theorem flagsAcknowledged : Obligations.FlagsAcknowledged := by
  refine ⟨fun c v => ?status, fun e v => ?events⟩
  case status =>
    rw [c.applyWrite_status]
    exact ⟨c.statusWord_acknowledge v, fun a ha => c.wordAt_acknowledge_of_ne v ha, rfl⟩
  case events =>
    rw [e.applyWrite_events]
    refine ⟨?_, fun a ha => e.wordAt_acknowledge_of_ne v ha, ?_⟩
    · rw [e.wordAt_events, Extension.wordAt_events, Extension.acknowledge_events, setWidth_and_not]
    · rw [Extension.acknowledge, BitVec.setWidth_eq_extractLsb' (by decide)]

end Sys2Proof.Machine
end

section
/-! ## The host interfaces by the region of an offset, and their little-endian buffers (20_memory.md R102, R104) -/

namespace Sys2Proof.Machine

/-! ### Words in memory -/

/-- A word is its four bytes appended. -/
theorem append_four_bytes (v : Word) :
    v.extractLsb' 24 8 ++ v.extractLsb' 16 8 ++ v.extractLsb' 8 8 ++ v.extractLsb' 0 8 = v := by
  have upper : v.extractLsb' 24 8 ++ v.extractLsb' 16 8 = v.extractLsb' 16 16 :=
    BitVec.extractLsb'_append_extractLsb'_eq_extractLsb' rfl
  have upper3 : v.extractLsb' 16 16 ++ v.extractLsb' 8 8 = v.extractLsb' 8 24 :=
    BitVec.extractLsb'_append_extractLsb'_eq_extractLsb' rfl
  rw [upper]
  exact (congrArg (· ++ v.extractLsb' 0 8) upper3).trans BitVec.extractLsb'_append_extractLsb'

/-- Byte `j` of a word in memory is the byte at the `j`-th address. -/
theorem Memory.extractLsb'_readWord (m : Memory) (a : Nat) {j : Nat} (h : j < 4) :
    (Memory.readWord m a).extractLsb' (8 * j) 8 = Memory.read m (a + j) := by
  have above {n : Nat} (x : BitVec n) (b : Byte) (k : Nat) : (x ++ b).extractLsb' (8 + k) 8 = x.extractLsb' k 8 := by
    rw [BitVec.extractLsb'_append_eq_of_le (by omega), Nat.add_sub_cancel_left]
  interval_cases j
  · exact BitVec.extractLsb'_append_eq_right
  · exact (above _ _ 0).trans BitVec.extractLsb'_append_eq_right
  · exact (above _ _ 8).trans ((above _ _ 0).trans BitVec.extractLsb'_append_eq_right)
  · exact (above _ _ 16).trans ((above _ _ 8).trans BitVec.extractLsb'_append_eq_left)

/-- The `j`-th of the bytes a word is written as. -/
theorem wordBytes_getElem (v : Word) {j : Nat} (h : j < (wordBytes v).length) :
    (wordBytes v)[j] = v.extractLsb' (8 * j) 8 := by
  have h4 : j < 4 := h
  interval_cases j <;> rfl

theorem Memory.read_writeWord_inside (m : Memory) (a : Nat) (v : Word) {j : Nat} (h : j < 4) :
    Memory.read (Memory.writeBytes m a (wordBytes v)) (a + j) = v.extractLsb' (8 * j) 8 :=
  (Memory.read_writeBytes_inside (wordBytes v) m a h).trans (wordBytes_getElem v h)

theorem Memory.read_writeWord_outside (m : Memory) {a x : Nat} (v : Word) (h : x < a ∨ a + 4 ≤ x) :
    Memory.read (Memory.writeBytes m a (wordBytes v)) x = Memory.read m x :=
  Memory.read_writeBytes_outside (wordBytes v) m h

/-- The word that was written is read. -/
theorem Memory.readWord_writeWord_same (m : Memory) (a : Nat) (v : Word) :
    Memory.readWord (Memory.writeBytes m a (wordBytes v)) a = v := by
  have byte := fun j (h : j < 4) => Memory.read_writeWord_inside m a v h
  calc Memory.readWord (Memory.writeBytes m a (wordBytes v)) a
      = v.extractLsb' 24 8 ++ v.extractLsb' 16 8 ++ v.extractLsb' 8 8 ++ v.extractLsb' 0 8 := by
        rw [Memory.readWord, byte 3 (by decide), byte 2 (by decide), byte 1 (by decide)]
        exact congrArg _ (byte 0 (by decide))
    _ = v := append_four_bytes v

/-- A word that shares no byte with the one written is read as before. -/
theorem Memory.readWord_writeWord_other (m : Memory) {a x : Nat} (v : Word) (h : x + 4 ≤ a ∨ a + 4 ≤ x) :
    Memory.readWord (Memory.writeBytes m a (wordBytes v)) x = Memory.readWord m x := by
  have byte := fun j (hj : j < 4) => Memory.read_writeWord_outside m (a := a) (x := x + j) v (by omega)
  rw [Memory.readWord, Memory.readWord, byte 3 (by decide), byte 2 (by decide), byte 1 (by decide)]
  exact congrArg _ (byte 0 (by decide))

/-! ### The Controller's words by the region of their offset -/

/-- Above CRC_CFG there are the buffers and REGISTRY. -/
theorem Controller.wordAt_above_registers (c : Controller) {a : Nat} (h : 0x034 ≤ a) :
    c.wordAt a = if 0x100 ≤ a ∧ a < 0x300 then Memory.readWord c.mem a
      else if 0x800 ≤ a then c.registryWord (a - 0x800) else 0 := by
  unfold Controller.wordAt
  iterate 13 rw [if_neg (by omega)]

theorem Controller.wordAt_buffer (c : Controller) {a : Nat} (h : 0x100 ≤ a) (h' : a < 0x300) :
    c.wordAt a = Memory.readWord c.mem a := by
  rw [c.wordAt_above_registers (by omega), if_pos ⟨h, h'⟩]

theorem Controller.wordAt_registry (c : Controller) {a : Nat} (h : 0x800 ≤ a) :
    c.wordAt a = c.registryWord (a - 0x800) := by
  rw [c.wordAt_above_registers (by omega), if_neg (by omega), if_pos h]

theorem Controller.wordAt_reserved (c : Controller) {a : Nat}
    (h : (0x034 ≤ a ∧ a < 0x100) ∨ (0x300 ≤ a ∧ a < 0x800)) : c.wordAt a = 0 := by
  rw [c.wordAt_above_registers (by omega), if_neg (by omega), if_neg (by omega)]

/-- No word outside TXBUF and RXBUF shows a byte of them. -/
theorem Controller.wordAt_with_mem (c : Controller) (m : Memory) {a : Nat} (h : ¬(0x100 ≤ a ∧ a < 0x300)) :
    Controller.wordAt { c with mem := m } a = c.wordAt a := by
  simp only [Controller.wordAt, if_neg h]
  rfl

/-- Beside CMD, STATUS and IRQ_EN only TXBUF is writable. -/
theorem Controller.applyWrite_no_register (c : Controller) {a : Nat} (v : Word) (hcmd : a ≠ 0x008) (hstatus : a ≠ 0x00C)
    (hirq : a ≠ 0x014) : c.applyWrite a v =
      if 0x100 ≤ a ∧ a < 0x200 then { c with mem := Memory.writeBytes c.mem a (wordBytes v) } else c := by
  rw [Controller.applyWrite, if_neg hcmd, if_neg hstatus, if_neg hirq]

theorem Controller.applyWrite_txbuf (c : Controller) {a : Nat} (v : Word) (h : 0x100 ≤ a) (h' : a < 0x200) :
    c.applyWrite a v = { c with mem := Memory.writeBytes c.mem a (wordBytes v) } := by
  rw [c.applyWrite_no_register v (by omega) (by omega) (by omega), if_pos ⟨h, h'⟩]

theorem Controller.applyWrite_readOnly (c : Controller) {a : Nat} (v : Word) (hcmd : a ≠ 0x008) (hstatus : a ≠ 0x00C)
    (hirq : a ≠ 0x014) (h : a < 0x100 ∨ 0x200 ≤ a) : c.applyWrite a v = c := by
  rw [c.applyWrite_no_register v hcmd hstatus hirq, if_neg (by omega)]

/-! ### A board's words by the region of their offset -/

/-- Beside its registers a board's interface has only the buffers. -/
theorem Extension.wordAt_no_register (e : Extension) {a : Nat} (h : 0x01C ≤ a) (hcrc : a ≠ 0x030) :
    e.wordAt a = if 0x100 ≤ a ∧ a < 0x400 then Memory.readWord e.mem a else 0 := by
  unfold Extension.wordAt
  iterate 8 rw [if_neg (by omega)]

theorem Extension.wordAt_buffer (e : Extension) {a : Nat} (h : 0x100 ≤ a) (h' : a < 0x400) :
    e.wordAt a = Memory.readWord e.mem a := by
  rw [e.wordAt_no_register (by omega) (by omega), if_pos ⟨h, h'⟩]

theorem Extension.wordAt_reserved (e : Extension) {a : Nat}
    (h : (0x01C ≤ a ∧ a < 0x030) ∨ (0x034 ≤ a ∧ a < 0x100) ∨ 0x400 ≤ a) : e.wordAt a = 0 := by
  rw [e.wordAt_no_register (by omega) (by omega), if_neg (by omega)]

/-- No word outside the buffers of a board shows a byte of them. -/
theorem Extension.wordAt_with_mem (e : Extension) (m : Memory) {a : Nat} (h : ¬(0x100 ≤ a ∧ a < 0x400)) :
    Extension.wordAt { e with mem := m } a = e.wordAt a := by
  simp only [Extension.wordAt, if_neg h]
  rfl

/-- Beside EVENTS, IRQ_EN and the two lengths only METRICS_BUF and OPTIONS_BUF are writable. -/
theorem Extension.applyWrite_no_register (e : Extension) {a : Nat} (v : Word) (hevents : a ≠ 0x008) (hirq : a ≠ 0x00C)
    (hmetrics : a ≠ 0x010) (hoptions : a ≠ 0x014) : e.applyWrite a v =
      if 0x100 ≤ a ∧ a < 0x300 then { e with mem := Memory.writeBytes e.mem a (wordBytes v) } else e := by
  rw [Extension.applyWrite, if_neg hevents, if_neg hirq, if_neg hmetrics, if_neg hoptions]

theorem Extension.applyWrite_buffer (e : Extension) {a : Nat} (v : Word) (h : 0x100 ≤ a) (h' : a < 0x300) :
    e.applyWrite a v = { e with mem := Memory.writeBytes e.mem a (wordBytes v) } := by
  rw [e.applyWrite_no_register v (by omega) (by omega) (by omega) (by omega), if_pos ⟨h, h'⟩]

theorem Extension.applyWrite_readOnly (e : Extension) {a : Nat} (v : Word) (hevents : a ≠ 0x008) (hirq : a ≠ 0x00C)
    (hmetrics : a ≠ 0x010) (hoptions : a ≠ 0x014) (h : a < 0x100 ∨ 0x300 ≤ a) : e.applyWrite a v = e := by
  rw [e.applyWrite_no_register v hevents hirq hmetrics hoptions, if_neg (by omega)]

/-- Settles O51: a buffer write is a write of four bytes to the core's memory, which no register shows. -/
theorem bufferWords : Obligations.BufferWords := by
  refine ⟨fun c a v h h' aligned => ?controller, fun e a v h h' aligned => ?board⟩
  case controller =>
    rw [c.applyWrite_txbuf v h h']
    refine ⟨?same, fun j hj => Memory.read_writeWord_inside c.mem a v hj, fun x hx hne => ?other,
      fun b hb => Memory.read_writeWord_outside c.mem v hb, rfl⟩
    case same => rw [Controller.wordAt_buffer _ h (by omega), Memory.readWord_writeWord_same]
    case other =>
      by_cases hbuf : 0x100 ≤ x ∧ x < 0x300
      · rw [Controller.wordAt_buffer _ hbuf.1 hbuf.2, c.wordAt_buffer hbuf.1 hbuf.2,
          Memory.readWord_writeWord_other c.mem v (by omega)]
      · exact c.wordAt_with_mem _ hbuf
  case board =>
    rw [e.applyWrite_buffer v h h']
    refine ⟨?same, fun j hj => Memory.read_writeWord_inside e.mem a v hj, fun x hx hne => ?other,
      fun b hb => Memory.read_writeWord_outside e.mem v hb, rfl⟩
    case same => rw [Extension.wordAt_buffer _ h (by omega), Memory.readWord_writeWord_same]
    case other =>
      by_cases hbuf : 0x100 ≤ x ∧ x < 0x400
      · rw [Extension.wordAt_buffer _ hbuf.1 hbuf.2, e.wordAt_buffer hbuf.1 hbuf.2,
          Memory.readWord_writeWord_other e.mem v (by omega)]
      · exact e.wordAt_with_mem _ hbuf

end Sys2Proof.Machine
end

section
/-! ## The host accesses (20_memory.md rules R101, R103, R104) -/

namespace Sys2Proof.Machine

/-! ### The access -/

theorem legalAccess_iff (addr : BitVec 12) (size : Nat) :
    legalAccess addr size = true ↔ size = 4 ∧ addr.toNat % 4 = 0 := by
  have aligned : addr.extractLsb' 0 2 = 0 ↔ addr.toNat % 4 = 0 := by
    rw [← BitVec.toNat_inj, BitVec.extractLsb'_toNat]
    rfl
  simp only [legalAccess, aligned, decide_eq_true_eq]

theorem not_legalAccess {addr : BitVec 12} {size : Nat} (h : ¬(size = 4 ∧ addr.toNat % 4 = 0)) :
    ¬legalAccess addr size = true := fun hl => h ((legalAccess_iff addr size).1 hl)

/-- An illegal access answers an error and does nothing else. -/
theorem State.memRead_illegal {s : State} {n : Node} {addr : BitVec 12} {size : Nat}
    (hp : (s.params n).isSome = true) (h : ¬(size = 4 ∧ addr.toNat % 4 = 0)) :
    s.memRead n addr size = .next { s with reply := { error := true, data := 0 } } := by
  simp [State.memRead, State.present, hp, not_legalAccess h]

theorem State.memWrite_illegal {s : State} {n : Node} {addr : BitVec 12} {size : Nat} (v : Word)
    (hp : (s.params n).isSome = true) (h : ¬(size = 4 ∧ addr.toNat % 4 = 0)) :
    s.memWrite n addr size v = .next { s with reply := { error := true, data := 0 } } := by
  simp [State.memWrite, State.present, hp, not_legalAccess h]

/-- A legal access is answered, and ends a step of the core (rule R105). -/
theorem State.memRead_legal {s : State} {n : Node} {addr : BitVec 12} (hp : (s.params n).isSome = true)
    (h : addr.toNat % 4 = 0) : s.memRead n addr 4 = endStep s n (.next { s with
      reply := { error := false, data := s.wordAt n addr.toNat }, active := n }) := by
  simp [State.memRead, State.present, hp, (legalAccess_iff addr 4).2 ⟨rfl, h⟩]

theorem State.memWrite_legal {s : State} {n : Node} {addr : BitVec 12} (v : Word) (hp : (s.params n).isSome = true)
    (h : addr.toNat % 4 = 0) : s.memWrite n addr 4 v = endStep s n (.next
      { s.mapNode n (fun c => c.applyWrite addr.toNat v) (fun e => e.applyWrite addr.toNat v) with
        reply := { error := false, data := 0 }, active := n }) := by
  simp [State.memWrite, State.present, hp, (legalAccess_iff addr 4).2 ⟨rfl, h⟩]

/-! ### The end of an access at a board -/

/-- A step that changes no SEL and no READY drives no line. -/
theorem State.driveLines_of_same_levels {before t : State} (hsel : t.ctrl.selOut = before.ctrl.selOut)
    (hlen : t.slots.length = before.slots.length)
    (hready : ∀ k, readyDriven (t.board k) = readyDriven (before.board k)) : t.driveLines before = t := by
  have same : driveSlots before.ctrl.selOut before.ctrl.selOut 0 before.slots t.slots = t.slots :=
    driveSlots_eq_self _ _ _ _ hlen.symm fun k old sl ho hs => by
      simpa [State.board, ho, hs] using hready k
  rw [State.driveLines, hsel, same]

/-- A board's step that sends nothing and keeps READY ends as it is. -/
theorem endStep_slot_quiet {before t : State} {k : Nat} {e e' : Extension} (hbefore : before.board k = some e)
    (ht : t.board k = some e') (hothers : ∀ j, j ≠ k → t.board j = before.board j)
    (hout : e'.framer.outbox = none) (hready : e'.readyOut = e.readyOut) (hctrl : t.ctrl = before.ctrl)
    (hlen : t.slots.length = before.slots.length) : endStep before (.slot k) (.next t) = .next t := by
  have unsent : t.transmit (.slot k) = t := State.transmit_of_empty fun fr hfr => by
    have hfr' : e'.framer = fr := by simpa [State.framer, ht] using hfr
    exact hfr' ▸ hout
  rw [endStep_slot, unsent, State.driveLines_of_same_levels (by rw [hctrl]) hlen fun j => ?_]
  by_cases hj : j = k
  · subst hj
    simp [readyDriven, ht, hbefore, hready]
  · rw [hothers j hj]

/-- A write of the host never sends, and changes no READY. -/
theorem Extension.applyWrite_frame (e : Extension) (a : Nat) (v : Word) :
    (e.applyWrite a v).framer = e.framer ∧ (e.applyWrite a v).readyOut = e.readyOut := by
  unfold Extension.applyWrite
  split_ifs <;> exact ⟨rfl, rfl⟩

theorem State.present_of_board {s : State} {k : Nat} {e : Extension} (h : s.board k = some e) :
    (s.params (.slot k)).isSome = true := by
  simp [State.params, h]

/-- A legal read of a board changes only the reply. -/
theorem State.memRead_slot {s : State} {k : Nat} {e : Extension} {addr : BitVec 12} (he : s.board k = some e)
    (hout : e.framer.outbox = none) (h : addr.toNat % 4 = 0) :
    s.memRead (.slot k) addr 4 = .next { s with
      reply := { error := false, data := e.wordAt addr.toNat }, active := .slot k } := by
  have word : s.wordAt (.slot k) addr.toNat = e.wordAt addr.toNat := by simp [State.wordAt, he]
  rw [State.memRead_legal (State.present_of_board he) h, word]
  exact endStep_slot_quiet he he (fun _ _ => rfl) hout rfl rfl rfl

/-- A legal write of a board changes only the reply and what the register's rule says of the board. -/
theorem State.memWrite_slot {s : State} {k : Nat} {e : Extension} {addr : BitVec 12} (v : Word)
    (he : s.board k = some e) (hout : e.framer.outbox = none) (h : addr.toNat % 4 = 0) :
    s.memWrite (.slot k) addr 4 v = .next ({ s with
      reply := { error := false, data := 0 }, active := .slot k }.setBoard k (e.applyWrite addr.toNat v)) := by
  obtain ⟨hframer, hready⟩ := e.applyWrite_frame addr.toNat v
  have written : s.mapNode (.slot k) (fun c => c.applyWrite addr.toNat v) (fun e => e.applyWrite addr.toNat v) =
      s.setBoard k (e.applyWrite addr.toNat v) := State.mapBoard_eq_setBoard _ he
  rw [State.memWrite_legal v (State.present_of_board he) h, written]
  exact endStep_slot_quiet he (State.board_setBoard_same _ he) (fun j hj => State.board_setBoard_other s _ hj)
    ((congrArg Framer.outbox hframer).trans hout) hready rfl (State.mapSlot_slots_length s k _)

/-! ### The fields of a word -/

/-- A register of `w` bits below bits that read 0. -/
theorem setWidth_eq_zero_append {w : Nat} (k : Nat) (x : BitVec w) : x.setWidth (k + w) = 0#k ++ x := by
  refine BitVec.eq_of_toNat_eq ?_
  rw [BitVec.setWidth_eq_append (Nat.le_add_left w k)]
  simp

theorem CState.isReg_eq (st : CState) : st.isReg = decide (st = .regSettle ∨ st = .regTx ∨ st = .regWait) := by
  cases st <;> rfl

theorem Controller.busy_eq (c : Controller) :
    c.busy = decide (c.cmdValid = true ∨ c.cst = .cmdSettle ∨ c.cst = .cmdTx ∨ c.cst = .cmdWait) := by
  have isCmd : c.cst.isCmd = decide (c.cst = .cmdSettle ∨ c.cst = .cmdTx ∨ c.cst = .cmdWait) := by
    cases c.cst <;> rfl
  simp [Controller.busy, isCmd]

/-- STATUS with its flags written one by one. -/
theorem Controller.statusWord_eq (c : Controller) : c.statusWord =
    c.respInfo ++ c.respLen ++ c.result.code ++ (0#2 ++
      BitVec.ofBool (c.cst = .regSettle ∨ c.cst = .regTx ∨ c.cst = .regWait) ++ BitVec.ofBool c.cmdDropped ++
      BitVec.ofBool c.evtOvf ++ BitVec.ofBool c.regEvt ++ BitVec.ofBool c.done ++
      BitVec.ofBool (c.cmdValid = true ∨ c.cst = .cmdSettle ∨ c.cst = .cmdTx ∨ c.cst = .cmdWait)) := by
  have flat (r f4 f3 f2 f1 b : BitVec 1) : 0#2 ++ r ++ (f4 ++ f3 ++ f2 ++ f1) ++ b =
      0#2 ++ r ++ f4 ++ f3 ++ f2 ++ f1 ++ b := by
    simp only [BitVec.append_assoc, BitVec.cast_eq]
  rw [Controller.statusWord, Controller.regActive, CState.isReg_eq, c.busy_eq, Controller.flags]
  exact congrArg (c.respInfo ++ c.respLen ++ c.result.code ++ ·) (flat _ _ _ _ _ _)

/-- STATE with its fields written one by one. -/
theorem Extension.stateWord_eq (e : Extension) : e.stateWord =
    0#14 ++ BitVec.ofBool e.selSync ++ BitVec.ofBool e.readyOut ++ e.extId ++ 0#6 ++ e.est.code := by
  simp only [Extension.stateWord, BitVec.append_assoc, BitVec.cast_eq]

/-- A slot register shows bit `k` of the slots the Controller has. -/
theorem getLsbD_and_lowMask (x : BitVec 32) (n : Nat) {k : Nat} (h : k < 32) :
    (x &&& lowMask n).getLsbD k = (decide (k < n) && x.getLsbD k) := by
  have mask : (lowMask n).getLsbD k = decide (k < n) := by
    simp only [lowMask, BitVec.getLsbD_ushiftRight, BitVec.getLsbD_allOnes, decide_eq_decide]
    omega
  rw [BitVec.getLsbD_and, mask, Bool.and_comm]

/-- The two words of the record of ID `i` (10_state.md rule R56). -/
theorem Controller.wordAt_record (c : Controller) (i : Byte) :
    c.wordAt (0x800 + 8 * i.toNat) = 0#29 ++ (c.record i).status.code ∧
    c.wordAt (0x804 + 8 * i.toNat) = (c.record i).last := by
  have id : BitVec.ofNat 8 i.toNat = i := BitVec.eq_of_toNat_eq (by simp)
  constructor
  · rw [c.wordAt_registry (by omega), Controller.registryWord, show 0x800 + 8 * i.toNat - 0x800 = 8 * i.toNat by omega,
      Nat.mul_div_cancel_left _ (by decide), id, if_pos (Nat.mul_mod_right 8 _)]
    exact setWidth_eq_zero_append 29 _
  · rw [c.wordAt_registry (by omega), Controller.registryWord,
      show (0x804 + 8 * i.toNat - 0x800) / 8 = i.toNat by omega, id, if_neg (by omega)]

/-! A write to IRQ_EN or a length keeps the low bits of the word. -/

theorem Extension.applyWrite_irqEn (e : Extension) (v : Word) :
    e.applyWrite 0x00C v = { e with irqEn := v.extractLsb' 0 4 } :=
  congrArg (fun bits => { e with irqEn := bits }) (BitVec.setWidth_eq_extractLsb' (by decide))

theorem Extension.applyWrite_metricsLen (e : Extension) (v : Word) :
    e.applyWrite 0x010 v = { e with metricsLen := v.extractLsb' 0 8 } :=
  congrArg (fun len => { e with metricsLen := len }) (BitVec.setWidth_eq_extractLsb' (by decide))

theorem Extension.applyWrite_optionsLen (e : Extension) (v : Word) :
    e.applyWrite 0x014 v = { e with optionsLen := v.extractLsb' 0 8 } :=
  congrArg (fun len => { e with optionsLen := len }) (BitVec.setWidth_eq_extractLsb' (by decide))

/-- Settles O50: the accesses, then the words of each core, then the codes they show. -/
theorem hostAccess : Obligations.HostAccess := by
  refine ⟨?illegal, ?readBoard, ?writeBoard, ?controllerAccess, fun c => ?controllerWords, fun e => ?boardWords,
    by decide, by decide, by decide, by decide⟩
  case illegal =>
    intro s n addr size v ev rest hin hp hl hev
    have present : (State.params { s with inputs := rest } n).isSome = true :=
      (congrArg Option.isSome (State.params_congr rfl rfl n)).trans hp
    rw [step_of_single hin]
    rcases hev with rfl | rfl
    · exact State.memRead_illegal present hl
    · exact State.memWrite_illegal v present hl
  case readBoard =>
    intro s k e addr rest hin he hout haddr
    rw [step_of_single hin]
    exact State.memRead_slot (s := { s with inputs := rest }) he hout haddr
  case writeBoard =>
    intro s k e addr v rest hin he hout haddr
    rw [step_of_single hin]
    exact State.memWrite_slot (s := { s with inputs := rest }) v he hout haddr
  case controllerAccess =>
    intro s addr v rest haddr taken
    refine ⟨fun hin => ?_, fun hin => ?_⟩ <;> rw [step_of_single hin]
    · exact State.memRead_legal (s := taken) (n := .controller) rfl haddr
    · exact State.memWrite_legal (s := taken) (n := .controller) v rfl haddr
  case controllerWords =>
    refine ⟨rfl, rfl, rfl, c.statusWord_eq, rfl, rfl, setWidth_eq_zero_append 24 c.nextId, rfl, fun k hk => ?_,
      rfl, rfl, c.wordAt_record, fun a j h h' hj => ?_, fun a _ h => c.wordAt_reserved h, fun v => rfl,
      fun a v => c.applyWrite_readOnly v⟩
    · exact ⟨getLsbD_and_lowMask _ _ hk, getLsbD_and_lowMask _ _ hk, getLsbD_and_lowMask _ _ hk⟩
    · rw [c.wordAt_buffer h h', Memory.extractLsb'_readWord _ _ hj]
  case boardWords =>
    refine ⟨rfl, e.stateWord_eq, setWidth_eq_zero_append 28 e.events, setWidth_eq_zero_append 28 e.irqEn,
      setWidth_eq_zero_append 24 e.metricsLen, setWidth_eq_zero_append 24 e.optionsLen,
      setWidth_eq_zero_append 24 e.configLen, rfl, fun a j h h' hj => ?_,
      fun a h => e.wordAt_reserved h,
      fun v => ⟨e.applyWrite_irqEn v, e.applyWrite_metricsLen v, e.applyWrite_optionsLen v⟩,
      fun a v => e.applyWrite_readOnly v⟩
    rw [e.wordAt_buffer h h', Memory.extractLsb'_readWord _ _ hj]

end Sys2Proof.Machine
end

section
/-! ## Decoding and encoding are inverse (30_encoding.md rules R130, R132, R133, R150..R153)

A code byte, the Packet-Type of a frame or the OPC of a command word, stands in one row of the opcode table. A row that
matches the high bits of the byte is a range of its values, so which row a byte stands in is a question about its
value. -/

namespace Sys2Proof

/-! ### The rows of a code byte -/

/-- The bytes with the high bits `hi` are a range of values. -/
theorem highBits_eq_iff_range (c : Byte) {n k : Nat} (hi : BitVec k) (h : k + n = 8) :
    c.extractLsb' n k = hi ↔ hi.toNat * 2 ^ n ≤ c.toNat ∧ c.toNat < (hi.toNat + 1) * 2 ^ n := by
  have hpos := Nat.two_pow_pos n
  have hsmall : c.toNat / 2 ^ n < 2 ^ k := by
    rw [Nat.div_lt_iff_lt_mul hpos, ← Nat.pow_add, h]
    exact c.isLt
  rw [← BitVec.toNat_inj, BitVec.extractLsb'_toNat, Nat.shiftRight_eq_div_pow, Nat.mod_eq_of_lt hsmall,
    Nat.div_eq_iff hpos, Nat.succ_mul]
  omega

/-- The rows of the table that fix high bits, as ranges (rules R133, R152). -/
theorem row_iff_range (c : Byte) :
    (c.extractLsb' 2 6 = 0b000011 ↔ 0x0C ≤ c.toNat ∧ c.toNat < 0x10) ∧
    (c.extractLsb' 3 5 = 0b00001 ↔ 0x08 ≤ c.toNat ∧ c.toNat < 0x10) ∧
    (c.extractLsb' 4 4 = 0b0001 ↔ 0x10 ≤ c.toNat ∧ c.toNat < 0x20) ∧
    (c.extractLsb' 5 3 = 0b001 ↔ 0x20 ≤ c.toNat ∧ c.toNat < 0x40) ∧
    (c.extractLsb' 6 2 = 0b01 ↔ 0x40 ≤ c.toNat ∧ c.toNat < 0x80) ∧
    (c.extractLsb' 7 1 = 0b1 ↔ 0x80 ≤ c.toNat ∧ c.toNat < 0x100) :=
  ⟨highBits_eq_iff_range c _ rfl, highBits_eq_iff_range c _ rfl, highBits_eq_iff_range c _ rfl,
    highBits_eq_iff_range c _ rfl, highBits_eq_iff_range c _ rfl, highBits_eq_iff_range c _ rfl⟩

/-- The OPCs below the first row that fixes only high bits (rule R151). -/
theorem lt_0x08_iff (c : Byte) :
    c.toNat < 0x08 ↔ c = 0x00 ∨ c = 0x01 ∨ c = 0x02 ∨ c = 0x03 ∨ c = 0x04 ∨ c = 0x05 ∨ c = 0x06 ∨ c = 0x07 := by
  revert c; decide

/-- A byte is its high bits followed by the bits that the row's mask leaves open. -/
theorem exists_low_of_highBits {n k : Nat} {c : BitVec (k + n)} {hi : BitVec k} (h : c.extractLsb' n k = hi) :
    ∃ low : BitVec n, c = hi ++ low :=
  ⟨c.extractLsb' 0 n, by rw [← h, BitVec.extractLsb'_append_extractLsb']⟩

/-! ### The instruction of a frame -/

/-- The instruction of a frame with type byte `t`: a packet of an assigned type, or the row of an unassigned one. -/
def frameInstr (t rid : Byte) (body : List Byte) : Instr :=
  match PacketType.ofCode t with
  | some ptype => packetInstr ptype rid body
  | none => unassignedInstr t rid body

theorem frameInstr_code (ptype : PacketType) (rid : Byte) (body : List Byte) :
    frameInstr ptype.code rid body = packetInstr ptype rid body := by
  rw [frameInstr, PacketType.ofCode_code]

/-- The rows of the unassigned types (rule R133): no row before that of `t` matches. -/
theorem frameInstr_of_highBits (t rid : Byte) (body : List Byte) :
    (t.extractLsb' 2 6 = 0b000011 → frameInstr t rid body = .unassigned0C (t.setWidth 2) rid body) ∧
    (t.extractLsb' 4 4 = 0b0001 → frameInstr t rid body = .unassigned10 (t.setWidth 4) rid body) ∧
    (t.extractLsb' 5 3 = 0b001 → frameInstr t rid body = .unassigned20 (t.setWidth 5) rid body) ∧
    (t.extractLsb' 6 2 = 0b01 → frameInstr t rid body = .unassigned40 (t.setWidth 6) rid body) ∧
    (t.extractLsb' 7 1 = 0b1 → frameInstr t rid body = .unassigned80 (t.setWidth 7) rid body) := by
  obtain ⟨h0C, -, h10, h20, h40, h80⟩ := row_iff_range t
  have unassigned (h : 0x0C ≤ t.toNat) : frameInstr t rid body = unassignedInstr t rid body := by
    rw [frameInstr, (PacketType.ofCode_eq_none t).2 (by omega)]
  have h00 : t = 0x00 ↔ t.toNat = 0 := BitVec.toNat_inj.symm
  simp only [h0C, h10, h20, h40, h80]
  refine ⟨?_, ?_, ?_, ?_, ?_⟩ <;> intro h <;>
    simp (disch := omega) only [unassigned, unassignedInstr, h00, h0C, h10, h20, h40, if_neg, if_pos]

/-- The row's high bits are dropped and its open bits kept as `low`. -/
theorem frameInstr_append (rid : Byte) (body : List Byte) :
    (∀ low : BitVec 2, frameInstr (0b000011#6 ++ low) rid body = .unassigned0C low rid body) ∧
    (∀ low : BitVec 4, frameInstr (0b0001#4 ++ low) rid body = .unassigned10 low rid body) ∧
    (∀ low : BitVec 5, frameInstr (0b001#3 ++ low) rid body = .unassigned20 low rid body) ∧
    (∀ low : BitVec 6, frameInstr (0b01#2 ++ low) rid body = .unassigned40 low rid body) ∧
    (∀ low : BitVec 7, frameInstr (0b1#1 ++ low) rid body = .unassigned80 low rid body) := by
  refine ⟨fun low => ?_, fun low => ?_, fun low => ?_, fun low => ?_, fun low => ?_⟩
  · obtain ⟨row0C, -⟩ := frameInstr_of_highBits (0b000011#6 ++ low) rid body
    rw [row0C BitVec.extractLsb'_append_eq_left, BitVec.setWidth_append_eq_right]
  · obtain ⟨-, row10, -⟩ := frameInstr_of_highBits (0b0001#4 ++ low) rid body
    rw [row10 BitVec.extractLsb'_append_eq_left, BitVec.setWidth_append_eq_right]
  · obtain ⟨-, -, row20, -⟩ := frameInstr_of_highBits (0b001#3 ++ low) rid body
    rw [row20 BitVec.extractLsb'_append_eq_left, BitVec.setWidth_append_eq_right]
  · obtain ⟨-, -, -, row40, -⟩ := frameInstr_of_highBits (0b01#2 ++ low) rid body
    rw [row40 BitVec.extractLsb'_append_eq_left, BitVec.setWidth_append_eq_right]
  · obtain ⟨-, -, -, -, row80⟩ := frameInstr_of_highBits (0b1#1 ++ low) rid body
    rw [row80 BitVec.extractLsb'_append_eq_left, BitVec.setWidth_append_eq_right]

/-- The rows of a Packet-Type byte (rules R132, R133). -/
theorem ptype_row_cases (t : Byte) :
    (∃ ptype : PacketType, t = ptype.code) ∨ t = 0x00 ∨ (∃ low : BitVec 2, t = 0b000011#6 ++ low) ∨
    (∃ low : BitVec 4, t = 0b0001#4 ++ low) ∨ (∃ low : BitVec 5, t = 0b001#3 ++ low) ∨
    (∃ low : BitVec 6, t = 0b01#2 ++ low) ∨ ∃ low : BitVec 7, t = 0b1#1 ++ low := by
  cases hcode : PacketType.ofCode t with
  | some ptype => exact .inl ⟨ptype, (PacketType.code_ofCode hcode).symm⟩
  | none =>
    obtain ⟨h0C, -, h10, h20, h40, h80⟩ := row_iff_range t
    have h00 : t = 0x00 ↔ t.toNat = 0 := BitVec.toNat_inj.symm
    have hrange := (PacketType.ofCode_eq_none t).1 hcode
    have row : t = 0x00 ∨ t.extractLsb' 2 6 = 0b000011 ∨ t.extractLsb' 4 4 = 0b0001 ∨ t.extractLsb' 5 3 = 0b001 ∨
        t.extractLsb' 6 2 = 0b01 ∨ t.extractLsb' 7 1 = 0b1 := by
      rw [h00, h0C, h10, h20, h40, h80]
      omega
    exact .inr (row.imp id (.imp exists_low_of_highBits (.imp exists_low_of_highBits (.imp exists_low_of_highBits
      (.imp exists_low_of_highBits exists_low_of_highBits)))))

theorem encode_packetInstr (p : Params) (ptype : PacketType) (rid : Byte) (body : List Byte) :
    encode p (packetInstr ptype rid body) = some (.frame (frameBytes p rid ptype.code body)) := by
  cases ptype <;> rfl

theorem encode_frameInstr (p : Params) (t rid : Byte) (body : List Byte) :
    encode p (frameInstr t rid body) = some (.frame (frameBytes p rid t body)) := by
  obtain ⟨row0C, row10, row20, row40, row80⟩ := frameInstr_append rid body
  rcases ptype_row_cases t with ⟨ptype, rfl⟩ | rfl | ⟨low, rfl⟩ | ⟨low, rfl⟩ | ⟨low, rfl⟩ | ⟨low, rfl⟩ | ⟨low, rfl⟩
  · rw [frameInstr_code, encode_packetInstr]
  · rfl
  · rw [row0C low, encode]
  · rw [row10 low, encode]
  · rw [row20 low, encode]
  · rw [row40 low, encode]
  · rw [row80 low, encode]

theorem frameInstr_wellFormed {body : List Byte} (h : wellFormedBody body = true) (t rid : Byte) :
    (frameInstr t rid body).wellFormed = true := by
  unfold frameInstr
  split
  next ptype _ => cases ptype <;> exact h
  next => unfold unassignedInstr; split_ifs <;> exact h

/-! ### Frames -/

theorem decodeFrame_frameBytes (p : Params) (t rid : Byte) {body : List Byte} (h : body.length = payloadMax) :
    decodeFrame p (frameBytes p rid t body) = .ok (frameInstr t rid body) := by
  have hbody : ((frameBytes p rid t body).drop 3).take payloadMax = body := by
    obtain ⟨-, -, -, -, hbody, -⟩ := frame_fields (p := p) (rid := rid) (t := t) h
    exact hbody
  rw [decodeFrame, decodePacket_frameBytes h, frameInstr, hbody]
  cases PacketType.ofCode t <;> rfl

/-- The checks of 40_framer_crc.md rule R183 that a frame which decodes to an instruction has passed. -/
theorem decodeFrame_checks {p : Params} {s : List Byte} {i : Instr} (h : decodeFrame p s = .ok i) :
    frameLen ≤ s.length ∧ s.getD 0 0 = p.protocolVersion ∧ crc8 p (s.take 255) = s.getD 255 0 := by
  unfold decodeFrame decodePacket at h
  by_cases hlen : s.length < frameLen
  · rw [if_pos hlen] at h; cases h
  by_cases hversion : s.getD 0 0 ≠ p.protocolVersion
  · rw [if_neg hlen, if_pos hversion] at h; cases h
  by_cases hcrc : crc8 p (s.take 255) ≠ s.getD 255 0
  · rw [if_neg hlen, if_neg hversion, if_pos hcrc] at h; cases h
  exact ⟨Nat.not_lt.1 hlen, not_not.1 hversion, not_not.1 hcrc⟩

/-- 256 bytes that pass those checks are the frame of their fields (30_encoding.md rule R130). -/
theorem eq_frameBytes_of_checks {p : Params} {s : List Byte} (hlen : s.length = frameLen)
    (hversion : s.getD 0 0 = p.protocolVersion) (hcrc : crc8 p (s.take 255) = s.getD 255 0) :
    ∃ rid t body, body.length = payloadMax ∧ s = frameBytes p rid t body := by
  obtain ⟨version, rid, t, rest, rfl⟩ : ∃ version rid t rest, s = version :: rid :: t :: rest := by
    match s, hlen with
    | version :: rid :: t :: rest, _ => exact ⟨version, rid, t, rest, rfl⟩
  have hrest : rest.length = 253 := by simpa [frameLen] using hlen
  obtain ⟨body, crc, rfl⟩ : ∃ body crc, rest = body ++ [crc] :=
    ⟨_, _, (List.dropLast_append_getLast (List.ne_nil_of_length_eq_add_one hrest)).symm⟩
  have hbody : body.length = 252 := by simpa using hrest
  refine ⟨rid, t, body, hbody, ?_⟩
  have hv : version = p.protocolVersion := hversion
  have hc : crc8 p (version :: rid :: t :: body) = crc := by simpa [hbody] using hcrc
  rw [frameBytes_eq, ← hv, hc]

theorem decodeFrame_ok {p : Params} {s : List Byte} {i : Instr} (hs : s.length ≤ frameLen)
    (h : decodeFrame p s = .ok i) :
    ∃ rid t body, body.length = payloadMax ∧ s = frameBytes p rid t body ∧ i = frameInstr t rid body := by
  obtain ⟨hlen, hversion, hcrc⟩ := decodeFrame_checks h
  obtain ⟨rid, t, body, hbody, rfl⟩ := eq_frameBytes_of_checks (Nat.le_antisymm hs hlen) hversion hcrc
  rw [decodeFrame_frameBytes p t rid hbody] at h
  exact ⟨rid, t, body, hbody, rfl, (Except.ok.inj h).symm⟩

/-! ### Command words -/

theorem commandWord_fields (w : Word) : commandWord (opcOf w) (targetOf w) (lenOf w) (rsvdOf w) = w :=
  Machine.append_four_bytes w

section
variable (opc target len rsvd : Byte)

@[simp] theorem opcOf_commandWord : opcOf (commandWord opc target len rsvd) = opc :=
  BitVec.extractLsb'_append_eq_right

@[simp] theorem targetOf_commandWord : targetOf (commandWord opc target len rsvd) = target :=
  (BitVec.extractLsb'_append_eq_of_le (Nat.le_refl 8)).trans BitVec.extractLsb'_append_eq_right

@[simp] theorem lenOf_commandWord : lenOf (commandWord opc target len rsvd) = len :=
  calc lenOf (commandWord opc target len rsvd)
      = (rsvd ++ len ++ target).extractLsb' 8 8 := BitVec.extractLsb'_append_eq_of_le (by decide)
    _ = (rsvd ++ len).extractLsb' 0 8 := BitVec.extractLsb'_append_eq_of_le (by decide)
    _ = len := BitVec.extractLsb'_append_eq_right

@[simp] theorem rsvdOf_commandWord : rsvdOf (commandWord opc target len rsvd) = rsvd :=
  calc rsvdOf (commandWord opc target len rsvd)
      = (rsvd ++ len ++ target).extractLsb' 16 8 := BitVec.extractLsb'_append_eq_of_le (by decide)
    _ = (rsvd ++ len).extractLsb' 8 8 := BitVec.extractLsb'_append_eq_of_le (by decide)
    _ = rsvd := BitVec.extractLsb'_append_eq_left

end

/-- The rows of the reserved OPCs from 0x08 on (rule R152): no row before that of `opc` matches. -/
theorem decodeCommand_of_highBits (opc target len rsvd : Byte) :
    (opc.extractLsb' 3 5 = 0b00001 →
      decodeCommand (commandWord opc target len rsvd) = .reserved08 (opc.setWidth 3) target len rsvd) ∧
    (opc.extractLsb' 4 4 = 0b0001 →
      decodeCommand (commandWord opc target len rsvd) = .reserved10 (opc.setWidth 4) target len rsvd) ∧
    (opc.extractLsb' 5 3 = 0b001 →
      decodeCommand (commandWord opc target len rsvd) = .reserved20 (opc.setWidth 5) target len rsvd) ∧
    (opc.extractLsb' 6 2 = 0b01 →
      decodeCommand (commandWord opc target len rsvd) = .reserved40 (opc.setWidth 6) target len rsvd) ∧
    (opc.extractLsb' 7 1 = 0b1 →
      decodeCommand (commandWord opc target len rsvd) = .reserved80 (opc.setWidth 7) target len rsvd) := by
  obtain ⟨-, h08, h10, h20, h40, h80⟩ := row_iff_range opc
  have not_below (h : 0x08 ≤ opc.toNat) := mt (lt_0x08_iff opc).2 (Nat.not_lt.2 h)
  simp only [not_or] at not_below
  simp only [h08, h10, h20, h40, h80]
  refine ⟨?_, ?_, ?_, ?_, ?_⟩ <;> intro h <;>
    obtain ⟨n0, n1, n2, n3, n4, n5, n6, n7⟩ := not_below (by omega) <;>
    simp (disch := omega) only [decodeCommand, opcOf_commandWord, targetOf_commandWord, lenOf_commandWord,
      rsvdOf_commandWord, n0, n1, n2, n3, n4, n5, n6, n7, if_false, h08, h10, h20, h40, if_neg, if_pos]

/-- The row's high bits are dropped and its open bits kept as `low`. -/
theorem decodeCommand_append (target len rsvd : Byte) :
    (∀ low : BitVec 3, decodeCommand (commandWord (0b00001#5 ++ low) target len rsvd) =
      .reserved08 low target len rsvd) ∧
    (∀ low : BitVec 4, decodeCommand (commandWord (0b0001#4 ++ low) target len rsvd) =
      .reserved10 low target len rsvd) ∧
    (∀ low : BitVec 5, decodeCommand (commandWord (0b001#3 ++ low) target len rsvd) =
      .reserved20 low target len rsvd) ∧
    (∀ low : BitVec 6, decodeCommand (commandWord (0b01#2 ++ low) target len rsvd) =
      .reserved40 low target len rsvd) ∧
    (∀ low : BitVec 7, decodeCommand (commandWord (0b1#1 ++ low) target len rsvd) =
      .reserved80 low target len rsvd) := by
  refine ⟨fun low => ?_, fun low => ?_, fun low => ?_, fun low => ?_, fun low => ?_⟩
  · obtain ⟨row08, -⟩ := decodeCommand_of_highBits (0b00001#5 ++ low) target len rsvd
    rw [row08 BitVec.extractLsb'_append_eq_left, BitVec.setWidth_append_eq_right]
  · obtain ⟨-, row10, -⟩ := decodeCommand_of_highBits (0b0001#4 ++ low) target len rsvd
    rw [row10 BitVec.extractLsb'_append_eq_left, BitVec.setWidth_append_eq_right]
  · obtain ⟨-, -, row20, -⟩ := decodeCommand_of_highBits (0b001#3 ++ low) target len rsvd
    rw [row20 BitVec.extractLsb'_append_eq_left, BitVec.setWidth_append_eq_right]
  · obtain ⟨-, -, -, row40, -⟩ := decodeCommand_of_highBits (0b01#2 ++ low) target len rsvd
    rw [row40 BitVec.extractLsb'_append_eq_left, BitVec.setWidth_append_eq_right]
  · obtain ⟨-, -, -, -, row80⟩ := decodeCommand_of_highBits (0b1#1 ++ low) target len rsvd
    rw [row80 BitVec.extractLsb'_append_eq_left, BitVec.setWidth_append_eq_right]

/-- The rows of an OPC (rules R151, R152). -/
theorem opc_row_cases (c : Byte) :
    (c = 0x00 ∨ c = 0x01 ∨ c = 0x02 ∨ c = 0x03 ∨ c = 0x04 ∨ c = 0x05 ∨ c = 0x06 ∨ c = 0x07) ∨
    (∃ low : BitVec 3, c = 0b00001#5 ++ low) ∨ (∃ low : BitVec 4, c = 0b0001#4 ++ low) ∨
    (∃ low : BitVec 5, c = 0b001#3 ++ low) ∨ (∃ low : BitVec 6, c = 0b01#2 ++ low) ∨
    ∃ low : BitVec 7, c = 0b1#1 ++ low := by
  obtain ⟨-, h08, h10, h20, h40, h80⟩ := row_iff_range c
  have row : c.toNat < 0x08 ∨ c.extractLsb' 3 5 = 0b00001 ∨ c.extractLsb' 4 4 = 0b0001 ∨ c.extractLsb' 5 3 = 0b001 ∨
      c.extractLsb' 6 2 = 0b01 ∨ c.extractLsb' 7 1 = 0b1 := by
    rw [h08, h10, h20, h40, h80]
    omega
  exact row.imp (lt_0x08_iff c).1 (.imp exists_low_of_highBits (.imp exists_low_of_highBits (.imp exists_low_of_highBits
    (.imp exists_low_of_highBits exists_low_of_highBits))))

theorem encode_decodeCommand (p : Params) (w : Word) : encode p (decodeCommand w) = some (.command w) := by
  obtain ⟨opc, target, len, rsvd, rfl⟩ : ∃ opc target len rsvd, w = commandWord opc target len rsvd :=
    ⟨_, _, _, _, (commandWord_fields w).symm⟩
  obtain ⟨row08, row10, row20, row40, row80⟩ := decodeCommand_append target len rsvd
  rcases opc_row_cases opc with literal | ⟨low, rfl⟩ | ⟨low, rfl⟩ | ⟨low, rfl⟩ | ⟨low, rfl⟩ | ⟨low, rfl⟩
  · rcases literal with rfl | rfl | rfl | rfl | rfl | rfl | rfl | rfl <;> simp [decodeCommand, encode]
  · rw [row08 low, encode]
  · rw [row10 low, encode]
  · rw [row20 low, encode]
  · rw [row40 low, encode]
  · rw [row80 low, encode]

/-! ### Every instruction that has an encoding -/

theorem decode_frameBytes (p : Params) {t rid : Byte} {body : List Byte} {i : Instr}
    (hbody : wellFormedBody body = true) (hi : frameInstr t rid body = i) :
    decode p (.frame (frameBytes p rid t body)) = .ok i :=
  hi ▸ decodeFrame_frameBytes p t rid (of_decide_eq_true hbody)

/-- 256 bytes whose first is PROTOCOL_VERSION and whose last is their CRC decode to the row of their type byte. -/
theorem decode_of_crc {p : Params} {rid t crc : Byte} {body : List Byte} (hbody : body.length = payloadMax)
    (hcrc : crc8 p (p.protocolVersion :: rid :: t :: body) = crc) :
    decode p (.frame (p.protocolVersion :: rid :: t :: (body ++ [crc]))) = .ok (frameInstr t rid body) := by
  rw [← hcrc, ← frameBytes_eq]
  exact decodeFrame_frameBytes p t rid hbody

theorem decode_command (p : Params) {w : Word} {i : Instr} (hi : decodeCommand w = i) : decode p (.command w) = .ok i :=
  hi ▸ rfl

/-- Settles O1: each constructor is the row in which its code byte stands. -/
theorem decodeOfEncode : Obligations.DecodeOfEncode := by
  intro p i hwf hop
  cases i with
  | initProbe | initProbeResponse | init | acknowledge | error | restart | configure | metrics | metricsResponse
  | configureOptions | configureOptionsResponse | unassigned00 =>
    exact ⟨_, rfl, decode_frameBytes p hwf rfl⟩
  | unassigned0C low rid body =>
    obtain ⟨row0C, -⟩ := frameInstr_append rid body
    exact ⟨_, rfl, decode_frameBytes p hwf (row0C low)⟩
  | unassigned10 low rid body =>
    obtain ⟨-, row10, -⟩ := frameInstr_append rid body
    exact ⟨_, rfl, decode_frameBytes p hwf (row10 low)⟩
  | unassigned20 low rid body =>
    obtain ⟨-, -, row20, -⟩ := frameInstr_append rid body
    exact ⟨_, rfl, decode_frameBytes p hwf (row20 low)⟩
  | unassigned40 low rid body =>
    obtain ⟨-, -, -, row40, -⟩ := frameInstr_append rid body
    exact ⟨_, rfl, decode_frameBytes p hwf (row40 low)⟩
  | unassigned80 low rid body =>
    obtain ⟨-, -, -, -, row80⟩ := frameInstr_append rid body
    exact ⟨_, rfl, decode_frameBytes p hwf (row80 low)⟩
  | cmdMetrics | cmdConfigure | cmdConfigOptions | cmdRestart | cmdProbe | cmdResetRegistry | reserved00 | reserved07 =>
    exact ⟨_, rfl, decode_command p (by simp [decodeCommand])⟩
  | reserved08 low target len rsvd =>
    obtain ⟨row08, -⟩ := decodeCommand_append target len rsvd
    exact ⟨_, rfl, decode_command p (row08 low)⟩
  | reserved10 low target len rsvd =>
    obtain ⟨-, row10, -⟩ := decodeCommand_append target len rsvd
    exact ⟨_, rfl, decode_command p (row10 low)⟩
  | reserved20 low target len rsvd =>
    obtain ⟨-, -, row20, -⟩ := decodeCommand_append target len rsvd
    exact ⟨_, rfl, decode_command p (row20 low)⟩
  | reserved40 low target len rsvd =>
    obtain ⟨-, -, -, row40, -⟩ := decodeCommand_append target len rsvd
    exact ⟨_, rfl, decode_command p (row40 low)⟩
  | reserved80 low target len rsvd =>
    obtain ⟨-, -, -, -, row80⟩ := decodeCommand_append target len rsvd
    exact ⟨_, rfl, decode_command p (row80 low)⟩
  | crc8 | encode | decode | parse => cases hop

/-- Settles O2: a code is the encoding of the row in which its code byte stands. -/
theorem encodeOfDecode : Obligations.EncodeOfDecode := by
  refine ⟨fun p w => ⟨decodeCommand w, rfl, encode_decodeCommand p w⟩, fun p bytes i hlen h => ?_⟩
  obtain ⟨rid, t, body, hbody, rfl, rfl⟩ := decodeFrame_ok hlen h
  exact ⟨encode_frameInstr p t rid body, frameInstr_wellFormed (decide_eq_true hbody) t rid⟩

/-! ### Words of the catalogue (95_test_vectors.md section 0.1) -/

/-- Settles O10: of each frame only the CRC is computed. -/
theorem decodingSanity : Obligations.DecodingSanity := by
  have hzeros : (List.replicate 252 (0x00 : Byte)).length = payloadMax := List.length_replicate
  have hbody : ((0x01 : Byte) :: List.replicate 251 0x00).length = payloadMax :=
    congrArg (· + 1) List.length_replicate
  refine ⟨?init, ?acknowledge, ?unassigned, ?checksum, ?configure, ?restart, ?reserved⟩
  case init => exact decode_of_crc (p := Params.vectors) hbody (by decide +kernel)
  case acknowledge => exact decode_of_crc (p := Params.vectors) hzeros (by decide +kernel)
  case unassigned => exact decode_of_crc (p := Params.vectors) hzeros (by decide +kernel)
  case checksum => decide +kernel
  all_goals rfl

end Sys2Proof
end

section
/-! ## Bodies: `parse` accepts exactly the well-formed ones (30_encoding.md rule R143, 40_framer_crc.md rules R187,
R188) -/

namespace Sys2Proof.Machine

/-! ### Serialized payloads -/

theorem padBody_length {payload : List Byte} (h : payload.length ≤ 252) : (padBody payload).length = payloadMax := by
  simp only [padBody, zeros, payloadMax, List.length_append, List.length_replicate]
  omega

theorem paddedFrom_padBody (payload : List Byte) : paddedFrom payload.length (padBody payload) = true :=
  paddedFrom_append payload _

theorem encodePacket_of_fits (p : Params) (rid : Byte) {f : Payload} (h : (serialize f).length ≤ 252) :
    encodePacket p rid f = .ok (frameBytes p rid f.ptype.code (padBody (serialize f))) :=
  if_neg (Nat.not_lt.2 h)

theorem encodePacket_of_too_long (p : Params) (rid : Byte) {f : Payload} (h : 252 < (serialize f).length) :
    encodePacket p rid f = .error (serialize f).length :=
  if_pos h

/-- What `encode` made decodes to the packet it was made of (40_framer_crc.md rules R174, R183). -/
theorem decodePacket_encoded (p : Params) (rid : Byte) {f : Payload} (h : (serialize f).length ≤ 252) :
    decodePacket p (frameBytes p rid f.ptype.code (padBody (serialize f))) =
      .ok { version := p.protocolVersion, rid := rid, ptype := f.ptype, body := padBody (serialize f) } := by
  rw [decodePacket_frameBytes (padBody_length h), PacketType.ofCode_code]

/-- Well-formed fields are parsed back from their padded payload. -/
theorem parse_padBody_serialize {f : Payload} (h : f.wellFormed = true) :
    parse f.ptype (padBody (serialize f)) = some f := by
  cases f with
  | initProbe | acknowledge | restart | metrics | configureOptions =>
    have empty : paddedFrom 0 (padBody []) = true := paddedFrom_padBody []
    simp only [Payload.ptype, serialize, parse, empty, if_true]
  | init id => exact parse_init (of_decide_eq_true h)
  | error code => exact parse_error code
  | initProbeResponse status id =>
    rcases of_decide_eq_true h with ⟨rfl, rfl⟩ | ⟨rfl, hid⟩
    · exact parse_initProbeResponse_unregistered 0x00
    · exact parse_initProbeResponse_registered hid
  | configure data | metricsResponse data | configureOptionsResponse data =>
    have blobBody : padBody (blob data) =
        BitVec.ofNat 8 data.length :: data ++ List.replicate (251 - data.length) 0x00 := by
      simp [padBody, blob, zeros, payloadMax, Nat.add_comm, Nat.sub_add_eq]
    simp only [Payload.ptype, serialize, parse, blobBody, parseBlob_of_data (of_decide_eq_true h), Option.map_some]

/-- Settles O3: the frame decodes to the padded payload, which parses to the fields. An INIT_PROBE_RESPONSE with status 0
is serialized without its id. -/
theorem packetRoundTrip : Obligations.PacketRoundTrip := by
  have roundTrip : ∀ (p : Params) (rid : Byte) (f : Payload), f.wellFormed = true → (serialize f).length ≤ 252 →
      ∃ bytes body, encodePacket p rid f = .ok bytes ∧
        decodePacket p bytes = .ok { version := p.protocolVersion, rid := rid, ptype := f.ptype, body := body } ∧
        parse f.ptype body = some f := fun p rid f hwf hlen =>
    ⟨_, _, encodePacket_of_fits p rid hlen, decodePacket_encoded p rid hlen, parse_padBody_serialize hwf⟩
  exact ⟨roundTrip, fun p rid id => roundTrip p rid (.initProbeResponse 0x00 0x00) (by decide) (by decide)⟩

/-! ### Accepted bodies -/

/-- A body that begins with the serialized fields and is zero behind them is the well-formed body of those fields. -/
theorem fitsBody_of_padded {body : List Byte} {f : Payload} (hb : body.length = 252) (hwf : f.wellFormed = true)
    (hpre : body.take (serialize f).length = serialize f) (hpad : paddedFrom (serialize f).length body = true) :
    fitsBody f.ptype body f := by
  refine ⟨rfl, hwf, .inl ?_⟩
  have h := eq_of_paddedFrom hpad
  rwa [hpre, hb] at h

theorem parse_of_fitsBody {t : PacketType} {body : List Byte} {f : Payload} (h : fitsBody t body f) :
    parse t body = some f := by
  obtain ⟨rfl, hwf, rfl | ⟨rfl, x, rfl⟩⟩ := h
  · exact parse_padBody_serialize hwf
  · exact parse_initProbeResponse_unregistered x

/-- A blob payload of a parsed length byte and its data. -/
theorem fitsBody_of_parseBlob {t : PacketType} {body : List Byte} {f : Payload} {make : List Byte → Payload}
    (hb : body.length = 252) (hptype : ∀ data, (make data).ptype = t)
    (hser : ∀ data, serialize (make data) = blob data)
    (hwf : ∀ data, data.length ≤ 251 → (make data).wellFormed = true) (h : (parseBlob body).map make = some f) :
    fitsBody t body f := by
  obtain ⟨data, hdata, rfl⟩ := Option.map_eq_some_iff.1 h
  obtain ⟨hlen, hbody⟩ := parseBlob_some hb hdata
  refine ⟨hptype data, hwf data hlen, .inl ?_⟩
  rw [hser, hbody]
  simp [blob, Nat.add_comm, Nat.sub_add_eq]

/-- What `parse` accepts is well-formed, by the rule of each type (40_framer_crc.md rule R187). -/
theorem fitsBody_of_parse {t : PacketType} {body : List Byte} {f : Payload} (hb : body.length = 252)
    (h : parse t body = some f) : fitsBody t body f := by
  obtain ⟨a, b, rest, rfl⟩ : ∃ a b rest, body = a :: b :: rest := by
    match body, hb with
    | a :: b :: rest, _ => exact ⟨a, b, rest, rfl⟩
  cases t with
  | initProbe | acknowledge | restart | metrics | configureOptions =>
    obtain ⟨hpad, h⟩ := Option.ite_none_right_eq_some.1 h
    cases h
    exact fitsBody_of_padded hb rfl rfl hpad
  | error =>
    obtain ⟨hpad, h⟩ := Option.ite_none_right_eq_some.1 h
    cases h
    exact fitsBody_of_padded hb rfl rfl hpad
  | init =>
    obtain ⟨hid, h⟩ := Option.ite_none_left_eq_some.1 h
    obtain ⟨hpad, h⟩ := Option.ite_none_right_eq_some.1 h
    cases h
    exact fitsBody_of_padded hb (decide_eq_true (not_or.1 hid)) rfl hpad
  | initProbeResponse =>
    by_cases hzero : a = 0x00
    · obtain ⟨hpad, h⟩ := Option.ite_none_right_eq_some.1 ((if_pos hzero).symm.trans h)
      cases h
      have padding := eq_of_paddedFrom hpad
      rw [hb, hzero] at padding
      exact ⟨rfl, rfl, .inr ⟨rfl, b, hzero ▸ padding⟩⟩
    · obtain ⟨hone, h⟩ := Option.ite_none_right_eq_some.1 ((if_neg hzero).symm.trans h)
      obtain ⟨hid, h⟩ := Option.ite_none_left_eq_some.1 h
      obtain ⟨hpad, h⟩ := Option.ite_none_right_eq_some.1 h
      cases h
      refine fitsBody_of_padded hb (decide_eq_true (.inr ⟨rfl, not_or.1 hid⟩)) ?_ hpad
      exact congrArg (· :: [b]) hone
  | configure => exact fitsBody_of_parseBlob hb (fun _ => rfl) (fun _ => rfl) (fun _ => decide_eq_true) h
  | metricsResponse => exact fitsBody_of_parseBlob hb (fun _ => rfl) (fun _ => rfl) (fun _ => decide_eq_true) h
  | configureOptionsResponse =>
    exact fitsBody_of_parseBlob hb (fun _ => rfl) (fun _ => rfl) (fun _ => decide_eq_true) h

end Sys2Proof.Machine
end

section
/-! ## The CRC register and what it detects (40_framer_crc.md rules R170, R172, R173) -/

namespace Sys2Proof

/-! ### One byte -/

/-- One byte is 8 shifts of the register it was exclusive-ored into (40_framer_crc.md rule R170). -/
theorem crcByte_eq_iterate (poly c b : Byte) : crcByte poly c b = (crcShift poly)^[8] (c ^^^ b) := rfl

theorem crcShift_zero (poly : Byte) : crcShift poly 0x00 = 0x00 := by
  simp [crcShift]

/-- A byte equal to the register clears it. -/
theorem crcByte_self (poly c : Byte) : crcByte poly c c = 0x00 := by
  rw [crcByte_eq_iterate, BitVec.xor_self]
  exact Function.iterate_fixed (crcShift_zero poly) 8

/-- The bit shifted in is that of the polynomial, which is added when the bit shifted out is set. -/
theorem getLsbD_zero_crcShift {poly : Byte} (hpoly : poly.getLsbD 0 = true) (c : Byte) :
    (crcShift poly c).getLsbD 0 = c.msb := by
  unfold crcShift
  split <;> simp_all

/-- A polynomial with the low bit set loses nothing in a shift: the bit shifted out is read back from the low bit. -/
theorem crcShift_injective {poly : Byte} (hpoly : poly.getLsbD 0 = true) : Function.Injective (crcShift poly) := by
  intro c d h
  have out : c.msb = d.msb := by
    rw [← getLsbD_zero_crcShift hpoly c, ← getLsbD_zero_crcShift hpoly d, h]
  have kept : c <<< 1 = d <<< 1 := by
    unfold crcShift at h
    rw [out] at h
    split at h
    · exact (BitVec.xor_left_inj _).1 h
    · exact h
  ext i hi
  rcases Nat.lt_or_eq_of_le (Nat.le_of_lt_succ hi) with hi' | rfl
  · have bit := congrArg (BitVec.getLsbD · (i + 1)) kept
    simpa [Nat.succ_lt_succ hi'] using bit
  · simpa [BitVec.msb_eq_getLsbD_last] using out

theorem xor_eq_of_crcByte_eq {poly : Byte} (hpoly : poly.getLsbD 0 = true) {c d b e : Byte}
    (h : crcByte poly c b = crcByte poly d e) : c ^^^ b = d ^^^ e :=
  (crcShift_injective hpoly).iterate 8 h

/-! ### A byte string -/

theorem crcBytes_injective {poly : Byte} (hpoly : poly.getLsbD 0 = true) (bs : List Byte) :
    Function.Injective (fun c => crcBytes poly c bs) := by
  induction bs with
  | nil => exact fun _ _ h => h
  | cons b bs ih =>
    intro c d h
    simp only [crcBytes_cons] at h
    exact (BitVec.xor_left_inj _).1 (xor_eq_of_crcByte_eq hpoly (ih h))

/-- A change of one byte changes the CRC register. -/
theorem crcBytes_modify_ne {poly : Byte} (hpoly : poly.getLsbD 0 = true) (c : Byte) {bs : List Byte} {i : Nat}
    {f : Byte → Byte} (hi : i < bs.length) (hf : ∀ b, f b ≠ b) :
    crcBytes poly c (bs.modify i f) ≠ crcBytes poly c bs := by
  induction bs generalizing c i with
  | nil => exact absurd hi (Nat.not_lt_zero i)
  | cons b bs ih =>
    cases i with
    | zero =>
      intro h
      simp only [List.modify_zero_cons, crcBytes_cons] at h
      exact hf b ((BitVec.xor_right_inj _).1 (xor_eq_of_crcByte_eq hpoly (crcBytes_injective hpoly bs h)))
    | succ i =>
      simp only [List.modify_succ_cons, crcBytes_cons]
      exact ih _ (Nat.lt_of_succ_lt_succ hi)

theorem crc8_of_xorout_zero {p : Params} (h : p.crcXorout = 0x00) (bs : List Byte) :
    crc8 p bs = crcBytes p.crcPoly p.crcInit bs := by
  simp [crc8, h]

/-- The residue: the CRC of a string that ends in its own CRC is 0x00 (40_framer_crc.md rule R172). -/
theorem crc8_residue {p : Params} (hx : p.crcXorout = 0x00) {f : List Byte} (hlen : f.length = 256)
    (hcrc : f.getD 255 0 = crc8 p (f.take 255)) : crc8 p f = 0x00 := by
  have hsplit : f = f.take 255 ++ [f.getD 255 0] := by
    rw [List.getD_eq_getElem _ _ (by omega), List.take_concat_get' f 255 (by omega), List.take_of_length_le (by omega)]
  rw [hsplit, hcrc, crc8_of_xorout_zero hx, crc8_of_xorout_zero hx, crcBytes_append]
  rw [crcBytes_cons, crcByte_self, crcBytes_nil]

theorem crcBytes_zeros (poly : Byte) (n : Nat) : crcBytes poly 0x00 (List.replicate n 0x00) = 0x00 := by
  induction n with
  | zero => rfl
  | succ n ih => rw [List.replicate_succ, crcBytes_cons, crcByte_self, ih]

/-! ### The checks of `decode` (40_framer_crc.md rule R183) -/

section
variable {p : Params} {s : List Byte}

theorem decodePacket_lengthMismatch (h : s.length < 256) : decodePacket p s = .error (.lengthMismatch s.length) :=
  if_pos h

theorem decodePacket_versionMismatch (hlen : s.length = 256) (h : s.getD 0 0 ≠ p.protocolVersion) :
    decodePacket p s = .error (.versionMismatch (s.getD 0 0)) :=
  (if_neg (by simp [hlen, frameLen])).trans (if_pos h)

theorem decodePacket_checksumMismatch (hlen : s.length = 256) (hversion : s.getD 0 0 = p.protocolVersion)
    (h : crc8 p (s.take 255) ≠ s.getD 255 0) : decodePacket p s = .error (.checksumMismatch (s.getD 255 0)) :=
  (if_neg (by simp [hlen, frameLen])).trans ((if_neg (not_not.2 hversion)).trans (if_pos h))

theorem decodePacket_unknownType (hlen : s.length = 256) (hversion : s.getD 0 0 = p.protocolVersion)
    (hcrc : crc8 p (s.take 255) = s.getD 255 0) (h : PacketType.ofCode (s.getD 2 0) = none) :
    decodePacket p s = .error (.unknownType (s.getD 1 0) (s.getD 2 0)) := by
  simp only [decodePacket, hlen, frameLen, Nat.lt_irrefl, hversion, hcrc, h, ne_eq, not_true_eq_false, if_false]

theorem decodePacket_packet {t : PacketType} (hlen : s.length = 256) (hversion : s.getD 0 0 = p.protocolVersion)
    (hcrc : crc8 p (s.take 255) = s.getD 255 0) (h : PacketType.ofCode (s.getD 2 0) = some t) :
    decodePacket p s =
      .ok { version := s.getD 0 0, rid := s.getD 1 0, ptype := t, body := (s.drop 3).take 252 } := by
  simp only [decodePacket, hlen, frameLen, Nat.lt_irrefl, hversion, hcrc, h, ne_eq, not_true_eq_false, if_false,
    payloadMax]

end

/-- Settles O5: the residue, and the checks that the all-zero frame passes and fails. -/
theorem crcResidue : Obligations.CrcResidue := by
  refine ⟨fun p f hx hlen hcrc => crc8_residue hx hlen hcrc, fun p hpoly hinit hx => ?_⟩
  have hlen : (List.replicate 256 (0x00 : Byte)).length = 256 := List.length_replicate
  have hcrc : crc8 p (List.replicate 255 0x00) = 0x00 := by
    rw [crc8_of_xorout_zero hx, hinit, crcBytes_zeros]
  have hzero : ∀ i, (List.replicate 256 (0x00 : Byte)).getD i 0 = 0x00 := fun i => by
    rw [List.getD_eq_getElem?_getD, List.getElem?_replicate]
    split <;> rfl
  have hcrc' : crc8 p ((List.replicate 256 0x00).take 255) = 0x00 := by
    rw [List.take_replicate]
    exact hcrc
  refine ⟨hcrc, fun hv => ?_, fun hv => ?_⟩
  · have h := decodePacket_versionMismatch hlen ((hzero 0).symm ▸ Ne.symm hv)
    rwa [hzero] at h
  · have h := decodePacket_unknownType hlen ((hzero 0).trans hv.symm) (hcrc'.trans (hzero 255).symm)
      (by rw [hzero]; rfl)
    rwa [hzero, hzero] at h

/-! ### Errors in one byte -/

/-- A valid frame with one changed byte behind the first fails the CRC check: both strings would have the residue 0x00. -/
theorem crc8_modify_ne {p : Params} (hpoly : p.crcPoly.getLsbD 0 = true) (hx : p.crcXorout = 0x00) {s : List Byte}
    (hlen : s.length = 256) (hcrc : s.getD 255 0 = crc8 p (s.take 255)) {i : Nat} {f : Byte → Byte} (hi : i < 256)
    (hf : ∀ b, f b ≠ b) : crc8 p ((s.modify i f).take 255) ≠ (s.modify i f).getD 255 0 := by
  intro h
  have hresidue := crc8_residue hx hlen hcrc
  have hresidue' := crc8_residue hx ((List.length_modify ..).trans hlen) h.symm
  rw [crc8_of_xorout_zero hx] at hresidue hresidue'
  exact crcBytes_modify_ne hpoly p.crcInit (hlen ▸ hi) hf (hresidue'.trans hresidue.symm)

theorem xor_bit_ne {j : Nat} (hj : j < 8) (b : Byte) : b ^^^ (1#8 <<< j) ≠ b := by
  intro h
  have bit := congrArg (BitVec.getLsbD · j) h
  simp [hj] at bit

/-- An encoded frame is 256 bytes with PROTOCOL_VERSION first and the CRC of the others last (30_encoding.md rule
R130). -/
theorem encodePacket_ok {p : Params} {rid : Byte} {f : Payload} {bytes : List Byte}
    (h : encodePacket p rid f = .ok bytes) :
    bytes.length = 256 ∧ bytes.getD 0 0 = p.protocolVersion ∧ bytes.getD 255 0 = crc8 p (bytes.take 255) := by
  rcases Nat.lt_or_ge 252 (serialize f).length with hlong | hfits
  · rw [Machine.encodePacket_of_too_long p rid hlong] at h
    cases h
  · rw [Machine.encodePacket_of_fits p rid hfits] at h
    cases h
    obtain ⟨hlen, hversion, -, -, -, htake, hlast⟩ :=
      frame_fields (p := p) (rid := rid) (t := f.ptype.code) (Machine.padBody_length hfits)
    exact ⟨hlen, hversion, hlast.trans (congrArg _ htake.symm)⟩

/-- Settles O4: a flip in byte 0 is seen as another version, a flip in any other byte by the CRC. -/
theorem singleBitErrorDetected : Obligations.SingleBitErrorDetected := by
  intro p rid f bytes i j hpoly _ hx hencode hi hj received
  obtain ⟨hlen, hversion, hcrc⟩ := encodePacket_ok hencode
  have flips := xor_bit_ne hj
  have hlen' : received.length = 256 := (List.length_modify ..).trans hlen
  by_cases hzero : i = 0
  · rw [if_pos hzero]
    refine decodePacket_versionMismatch hlen' ?_
    simpa [received, hzero, hlen, ← hversion] using flips (bytes.getD 0 0)
  · rw [if_neg hzero]
    refine decodePacket_checksumMismatch hlen' ?_ (crc8_modify_ne (by rw [hpoly]; rfl) hx hlen hcrc hi flips)
    rw [← hversion]
    simp [received, hzero]

end Sys2Proof
end

section
/-! ## The framer operations, called directly (40_framer_crc.md rules R170, R174, R183, R187) -/

namespace Sys2Proof.Machine

/-! ### The call -/

section
variable {s : State} {p : Params}

/-- A call at a node with a core changes only the result. -/
theorem State.framerCall_of_params (h : s.params s.active = some p) (f : Params → FramerResult) :
    s.framerCall f = { s with framerResult := some (f p) } := by
  simp only [State.framerCall, h, Option.map_some]

theorem exec_crc8 (h : s.params s.active = some p) (bytes : List Byte) :
    exec (.crc8 bytes) s = .next { s with framerResult := some (.crc (crc8 p bytes)) } :=
  congrArg Host.Outcome.next (State.framerCall_of_params h _)

theorem exec_encode_ok (h : s.params s.active = some p) {rid : Byte} {f : Payload} {bytes : List Byte}
    (hf : encodePacket p rid f = .ok bytes) :
    exec (.encode rid f) s = .next { s with framerResult := some (.frame bytes) } := by
  simp only [exec, execEncode, State.framerCall_of_params h, hf]

theorem exec_encode_error (h : s.params s.active = some p) {rid : Byte} {f : Payload} {n : Nat}
    (hf : encodePacket p rid f = .error n) :
    exec (.encode rid f) s = .next { s with framerResult := some (.formatError n) } := by
  simp only [exec, execEncode, State.framerCall_of_params h, hf]

theorem exec_decode_ok (h : s.params s.active = some p) {bytes : List Byte} {k : Packet}
    (hk : decodePacket p bytes = .ok k) :
    exec (.decode bytes) s = .next { s with framerResult := some (.packet k) } := by
  simp only [exec, execDecode, State.framerCall_of_params h, hk]

theorem exec_decode_error (h : s.params s.active = some p) {bytes : List Byte} {e : DecodeError}
    (he : decodePacket p bytes = .error e) :
    exec (.decode bytes) s = .next { s with framerResult := some (.decodeError e) } := by
  simp only [exec, execDecode, State.framerCall_of_params h, he]

theorem exec_parse_some (h : s.params s.active = some p) {t : PacketType} {body : List Byte} {f : Payload}
    (hf : parse t body = some f) : exec (.parse t body) s = .next { s with framerResult := some (.fields f) } := by
  simp only [exec, execParse, State.framerCall_of_params h, hf]

theorem exec_parse_none (h : s.params s.active = some p) {t : PacketType} {body : List Byte}
    (hf : parse t body = none) : exec (.parse t body) s = .next { s with framerResult := some .malformed } := by
  simp only [exec, execParse, State.framerCall_of_params h, hf]

end

/-! ### The statements -/

/-- Settles O6: the register of `crc8` is the fold over the bytes (`crcBytes_eq_foldl`), and a byte is 8 shifts. -/
theorem crc8Result : Obligations.Crc8Result := by
  refine ⟨fun bytes s p h => ?_, fun p => rfl, by decide +kernel⟩
  have shift : (fun x : Byte => if x.getLsbD 7 then (x <<< 1) ^^^ p.crcPoly else x <<< 1) = crcShift p.crcPoly := by
    funext x
    simp only [crcShift, BitVec.msb_eq_getLsbD_last]
  rw [exec_crc8 h, shift, crc8, crcBytes_eq_foldl]
  rfl

/-- Settles O7: what fits is framed, with the padded payload; what does not is answered with its length. -/
theorem encodeResult : Obligations.EncodeResult := by
  refine ⟨fun rid f s p h => ⟨fun hlong => ?_, fun hfits => ?_⟩, ?serialized⟩
  case serialized => simp [serialize, blob, PacketType.code]
  · exact exec_encode_error h (encodePacket_of_too_long p rid hlong)
  · refine ⟨_, rfl, ?_, ?_⟩
    · exact exec_encode_ok h (encodePacket_of_fits p rid hfits)
    · exact (encodePacket_ok (encodePacket_of_fits p rid hfits)).1

/-- Settles O8: the checks in the order of rule R183. -/
theorem decodeResult : Obligations.DecodeResult := by
  refine ⟨fun bytes s p h hle => ?_, fun n => ⟨rfl, rfl⟩, fun v => ⟨rfl, rfl⟩, fun c => ⟨rfl, rfl⟩,
    fun r t => ⟨rfl, rfl⟩⟩
  intro answers
  by_cases hshort : bytes.length < 256
  · rw [if_pos hshort]
    exact exec_decode_error h (decodePacket_lengthMismatch hshort)
  have hlen : bytes.length = 256 := Nat.le_antisymm hle (Nat.not_lt.1 hshort)
  rw [if_neg hshort]
  by_cases hversion : bytes.getD 0 0 = p.protocolVersion
  swap
  · rw [if_pos hversion]
    exact exec_decode_error h (decodePacket_versionMismatch hlen hversion)
  rw [if_neg (not_not.2 hversion)]
  by_cases hcrc : crc8 p (bytes.take 255) = bytes.getD 255 0
  swap
  · rw [if_pos hcrc]
    exact exec_decode_error h (decodePacket_checksumMismatch hlen hversion hcrc)
  rw [if_neg (not_not.2 hcrc)]
  cases htype : PacketType.ofCode (bytes.getD 2 0) with
  | none =>
    rw [if_pos ((PacketType.ofCode_eq_none _).1 htype)]
    exact exec_decode_error h (decodePacket_unknownType hlen hversion hcrc htype)
  | some t =>
    have assigned : PacketType.ofCode (bytes.getD 2 0) ≠ none := htype ▸ Option.some_ne_none t
    rw [if_neg (mt (PacketType.ofCode_eq_none _).2 assigned)]
    exact ⟨t, PacketType.code_ofCode htype, exec_decode_ok h (decodePacket_packet hlen hversion hcrc htype)⟩

/-- Settles O9: `parse` gives exactly the fields whose well-formed body it is. -/
theorem parseResult : Obligations.ParseResult := by
  refine fun t body s p h hlen => ⟨fun f hf => exec_parse_some h (parse_of_fitsBody hf), fun hnone => ?_⟩
  exact exec_parse_none h (Option.eq_none_iff_forall_ne_some.2 fun f hf => hnone f (fitsBody_of_parse hlen hf))

end Sys2Proof.Machine
end

section
/-! ## The receiver: bytes and gaps (40_framer_crc.md rules R178, R179, R180) -/

namespace Sys2Proof.Machine

/-! ### Bytes -/

theorem Memory.writeBytes_append (as bs : List Byte) (m : Memory) (a : Nat) :
    Memory.writeBytes m a (as ++ bs) = Memory.writeBytes (Memory.writeBytes m a as) (a + as.length) bs := by
  induction as generalizing m a with
  | nil => rfl
  | cons c as ih =>
    rw [List.cons_append, Memory.writeBytes, ih, Memory.writeBytes, List.length_cons, Nat.add_right_comm, Nat.add_assoc]

/-- The framer with one more byte of a frame (40_framer_crc.md rule R178). -/
def Framer.withByte (fr : Framer) (b : Byte) : Framer :=
  { fr with rxBuf := Memory.write fr.rxBuf fr.rxCount.toNat b, gapCount := 0, rxCount := fr.rxCount + 1 }

/-- A receiver that is not transmitting and is short of the 256th byte stores the byte. -/
theorem Framer.rxByte_of_room {fr : Framer} (b : Byte) (hbusy : fr.txBusy = false) (hroom : fr.rxCount ≠ 255) :
    fr.rxByte b = (fr.withByte b, none) := by
  rcases Framer.rxByte_cases fr b with ⟨h, -⟩ | ⟨-, -, h⟩ | ⟨-, h, -⟩
  · simp [hbusy] at h
  · exact h
  · exact absurd h hroom

theorem Framer.rxByte_last {fr : Framer} (b : Byte) (hbusy : fr.txBusy = false) (hlast : fr.rxCount = 255) :
    fr.rxByte b = ({ fr with rxBuf := Memory.write fr.rxBuf 255 b, gapCount := 0, rxCount := 0 },
      some (Memory.readBytes (Memory.write fr.rxBuf 255 b) 0 256)) := by
  rcases Framer.rxByte_cases fr b with ⟨h, -⟩ | ⟨-, h, -⟩ | ⟨-, -, h⟩
  · simp [hbusy] at h
  · exact absurd hlast h
  · exact h

theorem Framer.receive_append (fr : Framer) (as bs : List Byte) :
    fr.receive (as ++ bs) =
      (((fr.receive as).1.receive bs).1, (fr.receive as).2 ++ ((fr.receive as).1.receive bs).2) := by
  induction as generalizing fr with
  | nil => rfl
  | cons a as ih => simp [Framer.receive, ih]

theorem Framer.receive_singleton (fr : Framer) (b : Byte) :
    fr.receive [b] = ((fr.rxByte b).1, (fr.rxByte b).2.toList) := by
  simp [Framer.receive]

/-- Bytes that do not reach the 256th are stored behind those the receiver holds. -/
theorem Framer.receive_of_room {fr : Framer} (bytes : List Byte) (hbusy : fr.txBusy = false)
    (hroom : fr.rxCount.toNat + bytes.length < 256) :
    fr.receive bytes = ({ fr with
      rxBuf := Memory.writeBytes fr.rxBuf fr.rxCount.toNat bytes
      gapCount := if bytes = [] then fr.gapCount else 0
      rxCount := fr.rxCount + BitVec.ofNat 8 bytes.length }, []) := by
  induction bytes generalizing fr with
  | nil => simp [Framer.receive, Memory.writeBytes]
  | cons b bs ih =>
    rw [List.length_cons] at hroom
    have hcount : fr.rxCount ≠ 255 := fun h => by simp [h] at hroom; omega
    have hnext : (fr.rxCount + 1).toNat = fr.rxCount.toNat + 1 := by
      rw [BitVec.toNat_add]
      exact Nat.mod_eq_of_lt (by simp; omega)
    have more := ih (fr := fr.withByte b) hbusy (by simp only [Framer.withByte, hnext]; omega)
    have count : fr.rxCount + 1 + BitVec.ofNat 8 bs.length = fr.rxCount + BitVec.ofNat 8 (bs.length + 1) := by
      rw [BitVec.add_assoc, BitVec.add_comm 1, BitVec.ofNat_add]
      rfl
    simp only [Framer.withByte, hnext, count, ite_self] at more
    simp only [Framer.receive, Framer.rxByte_of_room b hbusy hcount, Framer.withByte, more, Memory.writeBytes,
      List.length_cons, reduceCtorEq, if_false]
    rfl

/-- Receiving touches neither the transmitter nor what is to be sent. -/
theorem Framer.receive_frame (fr : Framer) (bytes : List Byte) :
    (fr.receive bytes).1.txBusy = fr.txBusy ∧ (fr.receive bytes).1.outbox = fr.outbox := by
  induction bytes generalizing fr with
  | nil => exact ⟨rfl, rfl⟩
  | cons b bs ih =>
    have one : (fr.rxByte b).1.txBusy = fr.txBusy ∧ (fr.rxByte b).1.outbox = fr.outbox := by
      rcases Framer.rxByte_cases fr b with ⟨-, h⟩ | ⟨-, -, h⟩ | ⟨-, -, h⟩ <;> rw [h] <;> exact ⟨rfl, rfl⟩
    obtain ⟨busy, outbox⟩ := ih (fr.rxByte b).1
    exact ⟨busy.trans one.1, outbox.trans one.2⟩

/-- The 256th byte delivers the 256 bytes and empties the receiver. -/
theorem Framer.receive_whole {fr : Framer} {bytes : List Byte} (hbusy : fr.txBusy = false) (hempty : fr.rxCount = 0)
    (hlen : bytes.length = 256) : fr.receive bytes =
      ({ fr with rxBuf := Memory.writeBytes fr.rxBuf 0 bytes, gapCount := 0, rxCount := 0 }, [bytes]) := by
  obtain ⟨as, b, rfl⟩ : ∃ as b, bytes = as ++ [b] :=
    ⟨_, _, (List.dropLast_append_getLast (List.ne_nil_of_length_eq_add_one hlen)).symm⟩
  have has : as.length = 255 := by simpa using hlen
  have whole : Memory.write (Memory.writeBytes fr.rxBuf 0 as) 255 b = Memory.writeBytes fr.rxBuf 0 (as ++ [b]) := by
    rw [Memory.writeBytes_append, has]
    rfl
  have delivered := Memory.readBytes_writeBytes fr.rxBuf 0 (as ++ [b])
  rw [hlen] at delivered
  have last := Framer.rxByte_last (fr := { fr with
    rxBuf := Memory.writeBytes fr.rxBuf 0 as, gapCount := 0, rxCount := 255 }) b hbusy rfl
  have first : fr.receive as =
      ({ fr with rxBuf := Memory.writeBytes fr.rxBuf 0 as, gapCount := 0, rxCount := 255 }, []) := by
    rw [Framer.receive_of_room as hbusy (by simp [hempty, has])]
    simp [hempty, has, List.ne_nil_of_length_eq_add_one has]
  simp only [Framer.receive_append, first, Framer.receive_singleton, last, whole, delivered]
  rfl

/-- Settles O12: bytes short of a frame are stored (`receive_of_room`), the 256th delivers (`receive_whole`). -/
theorem receiverDelivers : Obligations.ReceiverDelivers := by
  intro fr bytes hbusy hempty _
  obtain ⟨busy, outbox⟩ := fr.receive_frame bytes
  refine ⟨fun hlt hne => ?_, fun hlen => ?_, busy.trans hbusy, outbox⟩
  · rw [Framer.receive_of_room bytes hbusy (by simpa [hempty] using hlt)]
    simp [hempty, hne, Nat.mod_eq_of_lt hlt]
  · rw [Framer.receive_whole hbusy hempty hlen]
    exact ⟨rfl, rfl, rfl⟩

/-! ### Gaps -/

/-- Ticks one after the other, the last one at the end. -/
theorem Framer.gapTicks_succ (tGap : BitVec 16) (n : Nat) (fr : Framer) :
    Framer.gapTicks tGap (n + 1) fr =
      (((Framer.gapTicks tGap n fr).1.gapTick tGap).1,
        (Framer.gapTicks tGap n fr).2 ++ ((Framer.gapTicks tGap n fr).1.gapTick tGap).2.toList) := by
  induction n generalizing fr with
  | zero => simp [Framer.gapTicks]
  | succ n ih =>
    rw [Framer.gapTicks, ih]
    simp [Framer.gapTicks]

theorem Framer.gapTicks_empty {fr : Framer} (tGap : BitVec 16) (h : fr.rxCount = 0) (n : Nat) :
    Framer.gapTicks tGap n fr = (fr, []) := by
  induction n with
  | zero => rfl
  | succ n ih => simp [Framer.gapTicks_succ, ih, Framer.gapTick, h]

theorem ofNat_add_one_eq_iff {t : BitVec 16} {m : Nat} (h : m < t.toNat) :
    BitVec.ofNat 16 m + 1 = t ↔ m + 1 = t.toNat := by
  have := t.isLt
  have step : BitVec.ofNat 16 m + 1 = BitVec.ofNat 16 (m + 1) := (BitVec.ofNat_add m 1).symm
  rw [step, ← BitVec.toNat_inj, BitVec.toNat_ofNat, Nat.mod_eq_of_lt (by omega)]

/-- Fewer than T_GAP ticks after the last byte are counted. -/
theorem Framer.gapTicks_of_lt {fr : Framer} {tGap : BitVec 16} (hrx : fr.rxCount ≠ 0) (hgap : fr.gapCount = 0) {m : Nat}
    (hm : m < tGap.toNat) : Framer.gapTicks tGap m fr = ({ fr with gapCount := BitVec.ofNat 16 m }, []) := by
  induction m with
  | zero => rw [Framer.gapTicks, show BitVec.ofNat 16 0 = fr.gapCount from hgap.symm]
  | succ m ih =>
    have early : BitVec.ofNat 16 m + 1 ≠ tGap := fun h =>
      Nat.ne_of_lt hm ((ofNat_add_one_eq_iff (Nat.lt_of_succ_lt hm)).1 h)
    simp only [Framer.gapTicks_succ, ih (Nat.lt_of_succ_lt hm), Framer.gapTick, if_neg hrx, if_neg early,
      BitVec.ofNat_add]
    rfl

/-- Settles O15: the ticks before the last are counted (`gapTicks_of_lt`), and the last one gives the frame up. -/
theorem gapTimeout : Obligations.GapTimeout := by
  refine fun fr tGap hT => ⟨fun hrx m => Framer.gapTicks_empty tGap hrx m,
    fun hrx hgap => ⟨fun m hm => Framer.gapTicks_of_lt hrx hgap hm, ?_⟩⟩
  obtain ⟨m, hm⟩ : ∃ m, tGap.toNat = m + 1 :=
    Nat.exists_eq_succ_of_ne_zero fun h => hT (BitVec.eq_of_toNat_eq h)
  have last : BitVec.ofNat 16 m + 1 = tGap := (ofNat_add_one_eq_iff (by omega)).2 hm.symm
  simp only [hm, Framer.gapTicks_succ, Framer.gapTicks_of_lt hrx hgap (Nat.lt_of_succ_le hm.ge), Framer.gapTick,
    if_neg hrx, if_pos last]
  rfl

end Sys2Proof.Machine
end

section
/-! ## One received byte at a node (40_framer_crc.md rules R178, R181) -/

namespace Sys2Proof.Machine

/-! ### What the medium leaves unchanged -/

@[simp] theorem State.board_received (s : State) (n : Node) (t : Transmission) (bs : List Byte) (w : Wire) (k : Nat) :
    (s.received n t bs w).board k = s.board k := by
  rw [← State.board_setWire s n w k]
  rfl

@[simp] theorem State.ctrl_received (s : State) (n : Node) (t : Transmission) (bs : List Byte) (w : Wire) :
    (s.received n t bs w).ctrl = s.ctrl := State.setWire_ctrl s n w

theorem State.brings.board {s s' : State} {n : Node} {b : Byte} {ev : Event} (h : s.brings n b ev s') (k : Nat) :
    s'.board k = s.board k := by
  cases h with
  | noise | overlapped => rfl
  | next | changed => exact State.board_received ..

theorem State.brings.ctrl {s s' : State} {n : Node} {b : Byte} {ev : Event} (h : s.brings n b ev s') :
    s'.ctrl = s.ctrl := by
  cases h with
  | noise | overlapped => rfl
  | next | changed => exact State.ctrl_received ..

/-! ### A byte that does not complete a frame -/

theorem State.receive_of_room {s : State} {n : Node} {fr : Framer} (b : Byte) (hf : s.framer n = some fr)
    (hbusy : fr.txBusy = false) (hroom : fr.rxCount ≠ 255) :
    s.receive n b = endStep s n (.next { s.mapFramer n (fun _ => fr.withByte b) with active := n }) := by
  obtain ⟨p, hp⟩ := State.params_of_framer hf
  simp only [State.receive, hf, hp, hbusy, Framer.rxByte_of_room b hbusy hroom, Bool.false_eq_true, if_false]

/-- `arbitrate()` starts nothing when the Controller is not IDLE, or IDLE with nothing to start
(42_controller_registration.md rule R260). -/
theorem State.arbitrate_quiet {s : State}
    (h : s.ctrl.cst ≠ .idle ∨ (s.ctrl.lowestPending = none ∧ s.ctrl.cmdValid = false)) : s.arbitrate = .next s := by
  by_cases hidle : s.ctrl.cst = .idle
  · obtain ⟨hpend, hvalid⟩ := h.resolve_left (not_not.2 hidle)
    simp [State.arbitrate, hidle, hpend, hvalid]
  · exact if_pos hidle

/-- A Controller's step that starts and sends nothing and changes no SEL and no slot ends as it is. -/
theorem endStep_controller_quiet {before t : State} (harb : t.arbitrate = .next t)
    (hout : t.ctrl.framer.outbox = none) (hsel : t.ctrl.selOut = before.ctrl.selOut) (hslots : t.slots = before.slots) :
    endStep before .controller (.next t) = .next t := by
  have unsent : t.transmit .controller = t := State.transmit_of_empty fun fr hfr => Option.some.inj hfr ▸ hout
  rw [endStep_controller harb, unsent, State.driveLines_of_same_levels hsel (by rw [hslots]) fun k => ?_]
  simp only [State.board, hslots]

/-- Settles O13: the byte is stored, and neither a board's end of step nor a quiet Controller's changes anything. -/
theorem byteFillsBuffer : Obligations.ByteFillsBuffer := by
  refine ⟨fun s s' k e b ev rest hin hbrings he hbusy hout hroom => ?board,
    fun s s' b ev rest hin hbrings hbusy hroom => ?controller⟩
  case board =>
    let taken : State := { s' with inputs := rest }
    have hboard : taken.board k = some e := (hbrings.board k).trans he
    have hframer : taken.framer (.slot k) = some e.framer := by simp [State.framer, hboard]
    have filled : taken.mapFramer (.slot k) (fun _ => e.framer.withByte b) =
        taken.setBoard k { e with framer := e.framer.withByte b } := State.mapBoard_eq_setBoard _ hboard
    rw [step_of_brings hin hbrings ((State.busy_slot he).trans hbusy),
      State.receive_of_room b hframer hbusy hroom, filled]
    exact endStep_slot_quiet hboard (State.board_setBoard_same _ hboard)
      (fun j hj => State.board_setBoard_other taken _ hj) hout rfl rfl (State.mapSlot_slots_length taken k _)
  case controller =>
    intro taken filled
    have hctrl : taken.ctrl = s.ctrl := hbrings.ctrl
    have hframer : taken.framer .controller = some s.ctrl.framer := congrArg (fun c : Controller => some c.framer) hctrl
    have hstep : step s = endStep taken .controller (.next filled) := by
      rw [step_of_brings hin hbrings hbusy,
        State.receive_of_room (s := taken) b hframer hbusy hroom]
      simp only [State.mapFramer, State.mapNode, State.mapCtrl, hbrings.ctrl, Framer.withByte, taken, filled]
    refine ⟨hstep, fun hout hquiet => hstep.trans ?_⟩
    exact endStep_controller_quiet (State.arbitrate_quiet hquiet) hout (congrArg (·.selOut) hctrl).symm rfl

/-! ### A byte at a node that transmits -/

theorem State.receive_while_sending {s : State} {n : Node} {fr : Framer} (b : Byte) (hf : s.framer n = some fr)
    (hbusy : fr.txBusy = true) : s.receive n b = .next s := by
  obtain ⟨p, hp⟩ := State.params_of_framer hf
  simp only [State.receive, hf, hp, hbusy, if_true]

/-- Settles O14: the framer discards the byte, and the medium delivers no byte of a frame. -/
theorem byteWhileSending : Obligations.ByteWhileSending := by
  intro s n fr b ev rest hin hev hf hbusy
  let taken : State := { s with inputs := rest }
  have hf' : taken.framer n = some fr := (State.framer_congr rfl rfl n).trans hf
  have sending : taken.busy n = true := by simp [State.busy, hf', hbusy]
  rw [step_of_single hin]
  rcases hev with rfl | rfl | rfl
  · change taken.noiseByte n b = .next taken
    rw [State.noiseByte, State.receive_while_sending b hf' hbusy, ite_self]
  · exact if_pos sending
  · exact if_pos sending

end Sys2Proof.Machine
end

section
/-! ## The response timer (60_exceptions.md rules R383, R384) -/

namespace Sys2Proof.Machine

/-! ### The ends of a transmission -/

/-- The Controller waits for a response (42_controller_registration.md rule R267, 43_controller_commands.md rule
R295). -/
abbrev CState.isWait (st : CState) : Prop := st = .regWait ∨ st = .cmdWait

/-- `TxDone` of a frame that asks for a response. -/
theorem Controller.txDone_awaits {c : Controller} (h : c.cst = .regTx ∨ (c.cst = .cmdTx ∧ opcOf c.curCmd ≠ 0x04)) :
    c.txDone = { c with
      framer := { c.framer with txBusy := false }
      timerArmed := true
      timerCount := c.params.tTimeout
      cst := if c.cst = .regTx then .regWait else .cmdWait } := by
  unfold Controller.txDone
  rcases h with h | ⟨h, hopc⟩ <;> rw [h]
  · rfl
  · exact if_neg hopc

theorem Controller.end_outside_tx {c : Controller} (hreg : c.cst ≠ .regTx) (hcmd : c.cst ≠ .cmdTx) :
    c.txDone = { c with framer := c.framer.endSend } ∧ c.txError = { c with framer := c.framer.endSend } := by
  unfold Controller.txDone Controller.txError
  cases hst : c.cst with
  | regTx => exact absurd hst hreg
  | cmdTx => exact absurd hst hcmd
  | idle | regSettle | regWait | cmdSettle | cmdWait => exact ⟨rfl, rfl⟩

/-! ### A failed attempt -/

/-- A failed attempt counts, and the Controller sends again or gives up (42_controller_registration.md rules R271,
R272). -/
theorem Controller.regAttemptFailed_counts (c : Controller) :
    c.regAttemptFailed.attempts = c.attempts + 1 ∧ c.regAttemptFailed.timerArmed = c.timerArmed ∧
    (c.regAttemptFailed.cst = .regTx ∨ c.regAttemptFailed.cst = .idle) := by
  rw [Controller.regAttemptFailed_eq]
  split
  · exact ⟨rfl, rfl, .inl rfl⟩
  · exact ⟨rfl, rfl, .inr rfl⟩

/-- So for a command (43_controller_commands.md rule R294). -/
theorem Controller.cmdAttemptFailed_counts {c : Controller} (h : c.timerArmed = false) :
    c.cmdAttemptFailed.attempts = c.attempts + 1 ∧ c.cmdAttemptFailed.timerArmed = false ∧
    (c.cmdAttemptFailed.cst = .cmdTx ∨ c.cmdAttemptFailed.cst = .idle) := by
  unfold Controller.cmdAttemptFailed
  dsimp only
  split
  · exact ⟨rfl, h, .inl rfl⟩
  split
  · exact ⟨rfl, rfl, .inr rfl⟩
  split
  · exact ⟨rfl, rfl, .inr rfl⟩
  · exact ⟨rfl, rfl, .inr rfl⟩

theorem Controller.timeout_counts {c : Controller} (hwait : c.cst.isWait) (h : c.timerArmed = false) :
    c.timeout.attempts = c.attempts + 1 ∧ c.timeout.timerArmed = false ∧ c.timeout.cst ≠ c.cst := by
  unfold Controller.timeout
  rcases hwait with hst | hst <;> rw [hst]
  · obtain ⟨hattempts, harmed, hcst⟩ := c.regAttemptFailed_counts
    exact ⟨hattempts, harmed.trans h, by rcases hcst with e | e <;> simp [e]⟩
  · obtain ⟨hattempts, harmed, hcst⟩ := Controller.cmdAttemptFailed_counts h
    exact ⟨hattempts, harmed, by rcases hcst with e | e <;> simp [e]⟩

/-! ### Ticks while the Controller waits -/

/-- Before the response timer counts, a tick changes neither the wait state nor the timer (60_exceptions.md rule
R378). -/
theorem Controller.tick_of_wait {c : Controller} (levels : BitVec 32) (hwait : c.cst.isWait) :
    ∃ d : Controller, c.tick levels = d.tickTimer ∧ d.cst = c.cst ∧ d.attempts = c.attempts ∧
      d.timerArmed = c.timerArmed ∧ d.timerCount = c.timerCount := by
  have settled : ∀ d : Controller, d.cst = c.cst → d.tickSettle = d := fun d hd => by
    unfold Controller.tickSettle
    rcases hwait with hst | hst <;> rw [hd, hst]
  refine ⟨(Controller.sampleReady { c with now := c.now + 1 } levels).tickGap, ?_, ?_⟩
  · rw [Controller.tick, settled _ (by rw [Controller.tickGap_eq]; rfl)]
  · rw [Controller.tickGap_eq]
    exact ⟨rfl, rfl, rfl, rfl⟩

theorem Controller.tick_counts {c : Controller} (levels : BitVec 32) (hwait : c.cst.isWait)
    (harmed : c.timerArmed = true) (hleft : 1 < c.timerCount.toNat) :
    (c.tick levels).cst = c.cst ∧ (c.tick levels).attempts = c.attempts ∧ (c.tick levels).timerArmed = true ∧
    (c.tick levels).timerCount.toNat = c.timerCount.toNat - 1 := by
  obtain ⟨d, htick, hcst, hattempts, hd, hcount⟩ := Controller.tick_of_wait levels hwait
  have left : (d.timerCount - 1).toNat = c.timerCount.toNat - 1 := by
    rw [hcount]
    exact BitVec.toNat_sub_of_le (BitVec.le_def.2 (Nat.le_of_lt hleft))
  have running : d.timerCount - 1 ≠ 0 := fun h => by
    have zero : c.timerCount.toNat - 1 = 0 := left.symm.trans (congrArg BitVec.toNat h)
    omega
  rw [htick, Controller.tickTimer, if_pos (hd.trans harmed)]
  dsimp only
  rw [if_neg running]
  exact ⟨hcst, hattempts, hd.trans harmed, left⟩

theorem Controller.tick_runs_out {c : Controller} (levels : BitVec 32) (hwait : c.cst.isWait)
    (harmed : c.timerArmed = true) (hleft : c.timerCount.toNat = 1) :
    (c.tick levels).attempts = c.attempts + 1 ∧ (c.tick levels).timerArmed = false ∧
    (c.tick levels).cst ≠ c.cst := by
  obtain ⟨d, htick, hcst, hattempts, hd, hcount⟩ := Controller.tick_of_wait levels hwait
  have out : d.timerCount - 1 = 0 := by
    rw [hcount, BitVec.eq_of_toNat_eq (y := 1) hleft]
    rfl
  rw [htick, Controller.tickTimer, if_pos (hd.trans harmed)]
  dsimp only
  rw [if_pos out, ← hcst, ← hattempts]
  exact Controller.timeout_counts (c := { d with timerCount := d.timerCount - 1, timerArmed := false })
    (hcst.symm ▸ hwait) rfl

/-- Fewer ticks than the timer has left are counted. -/
theorem Controller.ticks_count {c : Controller} (ticks : List (BitVec 32)) (hwait : c.cst.isWait)
    (harmed : c.timerArmed = true) (hleft : ticks.length < c.timerCount.toNat) :
    (ticks.foldl Controller.tick c).cst = c.cst ∧ (ticks.foldl Controller.tick c).attempts = c.attempts ∧
    (ticks.foldl Controller.tick c).timerArmed = true ∧
    (ticks.foldl Controller.tick c).timerCount.toNat = c.timerCount.toNat - ticks.length := by
  induction ticks generalizing c with
  | nil => exact ⟨rfl, rfl, harmed, rfl⟩
  | cons levels ticks ih =>
    rw [List.length_cons] at hleft
    obtain ⟨hcst, hattempts, harmed', hcount⟩ := Controller.tick_counts levels hwait harmed (by omega)
    obtain ⟨hcst', hattempts', harmed'', hcount'⟩ := ih (hcst.symm ▸ hwait) harmed' (by omega)
    refine ⟨hcst'.trans hcst, hattempts'.trans hattempts, harmed'', hcount'.trans ?_⟩
    rw [hcount, List.length_cons]
    omega

/-- As many ticks as the timer has left end the wait with one failed attempt. -/
theorem Controller.ticks_run_out {c : Controller} {ticks : List (BitVec 32)} (hwait : c.cst.isWait)
    (harmed : c.timerArmed = true) (hne : ticks ≠ []) (hleft : ticks.length = c.timerCount.toNat) :
    (ticks.foldl Controller.tick c).attempts = c.attempts + 1 ∧
    (ticks.foldl Controller.tick c).timerArmed = false ∧ (ticks.foldl Controller.tick c).cst ≠ c.cst := by
  obtain ⟨first, last, rfl⟩ : ∃ first last, ticks = first ++ [last] :=
    ⟨_, _, (List.dropLast_append_getLast hne).symm⟩
  rw [List.length_append, List.length_singleton] at hleft
  obtain ⟨hcst, hattempts, harmed', hcount⟩ := Controller.ticks_count first hwait harmed (by omega)
  rw [List.foldl_append, List.foldl_cons, List.foldl_nil, ← hattempts, ← hcst]
  exact Controller.tick_runs_out last (hcst.symm ▸ hwait) harmed' (by omega)

/-- Settles O48: the ticks before the last are counted (`ticks_count`), and the last one is a failed attempt. -/
theorem responseTimer : Obligations.ResponseTimer := by
  refine ⟨fun c ticks hT hst => ?_, fun c hreg hcmd => Controller.end_outside_tx hreg hcmd⟩
  dsimp only
  rw [Controller.txDone_awaits hst]
  have waits : CState.isWait (if c.cst = .regTx then .regWait else .cmdWait) := by
    split
    · exact .inl rfl
    · exact .inr rfl
  refine ⟨rfl, fun hlt => Controller.ticks_count ticks waits rfl hlt, fun hlen => ?_⟩
  have hne : ticks ≠ [] := fun h => hT (BitVec.eq_of_toNat_eq (by rw [← hlen, h]; rfl))
  exact Controller.ticks_run_out waits rfl hne hlen

end Sys2Proof.Machine
end

section
/-! ## Frames at a board: the rows of the table, and what each row's rule does (41_extension_fsm.md rules R213..R229) -/

namespace Sys2Proof.Machine

/-! ### The step of a frame -/

section
variable {s : State} {k : Nat} {e e' : Extension} {rid : Byte} {t : PacketType} {body : List Byte}

/-- A frame at a board changes the board as its row says, and nothing else of the machine. -/
theorem exec_packetInstr_board (ha : s.active = .slot k) (hb : s.board k = some e)
    (h : e.frameReceived rid t body = e') : exec (packetInstr t rid body) s = .next (s.setBoard k e') := by
  rw [exec_packetInstr, State.frameReceived_board ha hb, h]

/-- A frame that the board drops changes nothing. -/
theorem exec_packetInstr_dropped (ha : s.active = .slot k) (hb : s.board k = some e)
    (h : e.frameReceived rid t body = e) : exec (packetInstr t rid body) s = .next s := by
  rw [exec_packetInstr_board ha hb h, State.setBoard_self hb]

/-! ### A failed decode (rule R213) -/

theorem Extension.decodeFailed_unknownType (e : Extension) (rid t : Byte) : e.decodeFailed (.unknownType rid t) =
    if e.est = .registered ∧ rid = e.extId then e.sendsError 0x01 else e := by
  rw [← Extension.replyError_eq_sendsError]
  rfl

theorem Extension.decodeFailed_other {reason : DecodeError} (h : ∀ r t, reason ≠ .unknownType r t) (e : Extension) :
    e.decodeFailed reason = e := by
  cases reason with
  | unknownType r t => exact absurd rfl (h r t)
  | lengthMismatch | versionMismatch | checksumMismatch => rfl

theorem State.decodeFailed_unknownType_board (ha : s.active = .slot k) (hb : s.board k = some e) (rid t : Byte) :
    s.decodeFailed (.unknownType rid t) =
      if e.est = .registered ∧ rid = e.extId then s.setBoard k (e.sendsError 0x01) else s := by
  rw [State.decodeFailed_board ha hb, e.decodeFailed_unknownType]
  split
  · rfl
  · exact State.setBoard_self hb

/-- A frame of an unassigned type is dropped unless it is addressed to the board, in REGISTERED. -/
theorem exec_unassignedInstr_dropped (ha : s.active = .slot k) (hb : s.board k = some e)
    (h : ¬(e.est = .registered ∧ rid = e.extId)) (t : Byte) (body : List Byte) :
    exec (unassignedInstr t rid body) s = .next s := by
  obtain ⟨t', ht⟩ := exec_unassignedInstr t rid body s
  rw [ht, State.decodeFailed_unknownType_board ha hb, if_neg h]

/-! ### The rows of rule R215 -/

theorem Extension.route_unregistered (hst : e.est ≠ .registered) (rid : Byte) (t : PacketType) :
    e.route rid t =
      if rid = 0xFF ∧ e.selSync ∧ t = .init then .register
      else if rid = 0xFF ∧ e.selSync ∧ t = .initProbe then .probe
      else .drop := if_pos hst

/-- An unregistered board has a row only for a broadcast INIT or INIT_PROBE while SEL is asserted. -/
theorem Extension.route_unregistered_drop (hst : e.est ≠ .registered)
    (h : ¬(rid = 0xFF ∧ e.selSync = true ∧ (t = .init ∨ t = .initProbe))) : e.route rid t = .drop := by
  rw [Extension.route_unregistered hst, if_neg fun ⟨hr, hs, ht⟩ => h ⟨hr, hs, .inl ht⟩,
    if_neg fun ⟨hr, hs, ht⟩ => h ⟨hr, hs, .inr ht⟩]

theorem Extension.route_addressed (hst : e.est = .registered) (hid : e.extId ≠ 0xFF) (t : PacketType) :
    e.route e.extId t = addressedRoute t := by
  rw [Extension.route, if_neg (not_not.2 hst), if_neg fun h => h.1 rfl, if_neg hid]

theorem Extension.route_broadcast (hst : e.est = .registered) (t : PacketType) :
    e.route 0xFF t =
      if t = .restart then .restart
      else if e.selSync ∧ t = .init then .reRegister
      else if e.selSync ∧ t = .initProbe then .probe
      else .drop := by
  rw [Extension.route, if_neg (not_not.2 hst), if_neg fun h => h.2 rfl, if_pos rfl]

theorem Extension.route_broadcast_drop (hst : e.est = .registered) (ht : t ≠ .restart)
    (h : ¬(e.selSync = true ∧ (t = .init ∨ t = .initProbe))) : e.route 0xFF t = .drop := by
  rw [Extension.route_broadcast hst, if_neg ht, if_neg fun ⟨hs, ht⟩ => h ⟨hs, .inl ht⟩,
    if_neg fun ⟨hs, ht⟩ => h ⟨hs, .inr ht⟩]

theorem Extension.route_elsewhere (hst : e.est = .registered) (hid : rid ≠ e.extId) (hb : rid ≠ 0xFF)
    (t : PacketType) : e.route rid t = .drop := by
  rw [Extension.route, if_neg (not_not.2 hst), if_pos ⟨hid, hb⟩]

/-- RESTART is for a REGISTERED board whether addressed or broadcast. -/
theorem Extension.route_restart (hst : e.est = .registered) (hr : rid = e.extId ∨ rid = 0xFF) :
    e.route rid .restart = .restart := by
  by_cases hb : rid = 0xFF
  · rw [hb, Extension.route_broadcast hst, if_pos rfl]
  · obtain rfl := hr.resolve_right hb
    exact Extension.route_addressed hst hb .restart

/-- INIT_PROBE is for a board that is selected or addressed. -/
theorem Extension.route_initProbe (hid : e.extId ≠ 0xFF) (rid : Byte) :
    e.route rid .initProbe =
      if (rid = 0xFF ∧ e.selSync = true) ∨ (rid = e.extId ∧ e.est = .registered) then .probe else .drop := by
  by_cases hst : e.est = .registered
  · by_cases hb : rid = 0xFF
    · have other : ¬((0xFF : Byte) = e.extId ∧ e.est = .registered) := fun h => hid h.1.symm
      rw [hb, Extension.route_broadcast hst]
      simp only [other, reduceCtorEq, and_false, and_true, true_and, or_false, if_false]
    · by_cases hr : rid = e.extId
      · rw [if_pos (.inr ⟨hr, hst⟩), hr, Extension.route_addressed hst hid]
        rfl
      · rw [Extension.route_elsewhere hst hr hb, if_neg fun h => h.elim (fun h => hb h.1) fun h => hr h.1]
  · simp [Extension.route_unregistered hst, hst]

/-! ### What a row's rule does -/

theorem Extension.frameReceived_drop (h : e.route rid t = .drop) (body : List Byte) :
    e.frameReceived rid t body = e := by
  simp only [Extension.frameReceived, h]

/-- A frame without a row changes nothing (rules R214, R216, R229). -/
theorem exec_packetInstr_no_row (ha : s.active = .slot k) (hb : s.board k = some e) (h : e.route rid t = .drop)
    (body : List Byte) : exec (packetInstr t rid body) s = .next s :=
  exec_packetInstr_dropped ha hb (Extension.frameReceived_drop h body)

/-- A well-formed INIT registers the board (rule R220). -/
theorem Extension.frameReceived_register (h : e.route rid t = .register) {id : Byte} (hid : assignable id) :
    e.frameReceived rid t (id :: List.replicate 251 0x00) = { e with
      extId := id
      est := .registered
      readyOut := false
      events := e.events ||| 0b0001
      framer := e.sending 0x04 [] } := by
  simp only [Extension.frameReceived, h, Extension.register, parse_init hid]
  exact Extension.reply_eq_sending _ .acknowledge (Nat.zero_le _)

theorem Extension.frameReceived_register_malformed (h : e.route rid t = .register) (hp : parse .init body = none) :
    e.frameReceived rid t body = e := by
  simp only [Extension.frameReceived, h, Extension.register, hp]

/-- A retried INIT is acknowledged again and its ID adopted (rule R221). -/
theorem Extension.frameReceived_reRegister (h : e.route rid t = .reRegister) {id : Byte} (hid : assignable id) :
    e.frameReceived rid t (id :: List.replicate 251 0x00) = { e with
      extId := id
      events := e.events ||| 0b0001
      framer := e.sending 0x04 [] } := by
  simp only [Extension.frameReceived, h, Extension.reRegister, parse_init hid]
  exact Extension.reply_eq_sending _ .acknowledge (Nat.zero_le _)

theorem Extension.frameReceived_reRegister_malformed (h : e.route rid t = .reRegister)
    (hp : parse .init body = none) : e.frameReceived rid t body = e := by
  simp only [Extension.frameReceived, h, Extension.reRegister, hp]

/-- A payload without fields has a body of zeros. -/
theorem parse_zeros {f : Payload} (hs : serialize f = []) (hwf : f.wellFormed = true) :
    parse f.ptype (List.replicate 252 0x00) = some f := by
  have h := parse_padBody_serialize hwf
  rwa [hs] at h

/-- An INIT_PROBE is answered with the ID of the board, or with none (rule R222). -/
theorem Extension.frameReceived_probe (h : e.route rid t = .probe) :
    e.frameReceived rid t (List.replicate 252 0x00) = { e with
      framer := if e.est = .registered then e.sending 0x02 [0x01, e.extId] else e.sending 0x02 [0x00, 0x00] } := by
  have hp : parse .initProbe (List.replicate 252 0x00) = some .initProbe := parse_zeros (f := .initProbe) rfl rfl
  simp only [Extension.frameReceived, h, Extension.answerProbe, hp]
  split
  · exact e.reply_eq_sending (.initProbeResponse 0x01 e.extId) (by simp [serialize])
  · exact e.reply_eq_sending (.initProbeResponse 0x00 0x00) (by decide)

theorem Extension.frameReceived_probe_malformed (h : e.route rid t = .probe) (hp : parse .initProbe body = none)
    (ha : ¬(rid = e.extId ∧ e.est = .registered)) : e.frameReceived rid t body = e := by
  simp only [Extension.frameReceived, h, Extension.answerProbe, hp, if_neg ha]

/-- A RESTART unregisters the board (rule R224). -/
theorem Extension.frameReceived_restart (h : e.route rid t = .restart) :
    e.frameReceived rid t (List.replicate 252 0x00) = { e with
      extId := 0x00
      est := if e.selSync then .selected else .uninitialized
      readyOut := true
      events := e.events ||| 0b0100 } := by
  have hp : parse .restart (List.replicate 252 0x00) = some .restart := parse_zeros (f := .restart) rfl rfl
  simp only [Extension.frameReceived, h, Extension.doRestart, hp]
  rfl

theorem Extension.frameReceived_restart_malformed (h : e.route rid t = .restart) (hp : parse .restart body = none)
    (ha : rid ≠ e.extId) : e.frameReceived rid t body = e := by
  simp only [Extension.frameReceived, h, Extension.doRestart, hp, if_neg ha]

/-- A RESTART that is not addressed, malformed or not, leaves the framer. -/
theorem Extension.frameReceived_restart_framer (h : e.route rid t = .restart) (ha : rid ≠ e.extId)
    (body : List Byte) : (e.frameReceived rid t body).framer = e.framer := by
  simp only [Extension.frameReceived, h, Extension.doRestart, if_neg ha]
  split <;> rfl

/-- CONFIGURE stores its data and is acknowledged (rule R226). -/
theorem Extension.frameReceived_configure (h : e.route rid t = .configure) {data : List Byte}
    (hp : parse .configure body = some (.configure data)) :
    e.frameReceived rid t body = { e with
      mem := Memory.writeBytes e.mem 0x300 data
      configLen := BitVec.ofNat 8 data.length
      events := e.events ||| 0b0010
      framer := e.sending 0x04 [] } := by
  simp only [Extension.frameReceived, h, Extension.storeConfig, hp]
  exact Extension.reply_eq_sending _ .acknowledge (Nat.zero_le _)

/-- The blob of the first bytes of a buffer, which begins with their number. -/
theorem blob_readBytes (m : Memory) (a : Nat) (n : Byte) :
    blob (Memory.readBytes m a n.toNat) = n :: bufferBytes m a n.toNat := by
  rw [blob, Memory.readBytes_length, BitVec.ofNat_toNat, BitVec.setWidth_eq, Memory.readBytes_eq_bufferBytes]

/-- A response of a buffer's first `n` bytes, with their number before them. -/
theorem Extension.reply_buffer (e : Extension) {p : Payload} {a : Nat} {n : Byte} (hn : n.toNat ≤ 251)
    (hp : serialize p = blob (Memory.readBytes e.mem a n.toNat)) :
    e.reply p = { e with framer := e.sending p.ptype.code (n :: bufferBytes e.mem a n.toNat) } := by
  rw [blob_readBytes] at hp
  have fits : (serialize p).length ≤ 252 := by
    rw [hp, List.length_cons, bufferBytes_length]
    omega
  rw [Extension.reply_eq_sending e p fits, hp]

/-- METRICS is answered with METRICS_BUF, or with Error 0x04 if its length is not one of a blob (rule R225). -/
theorem Extension.frameReceived_metrics (h : e.route rid t = .metrics) :
    e.frameReceived rid t (List.replicate 252 0x00) =
      if 251 < e.metricsLen.toNat then e.sendsError 0x04
      else { e with framer := e.sending 0x09 (e.metricsLen :: bufferBytes e.mem 0x100 e.metricsLen.toNat) } := by
  have hp : parse .metrics (List.replicate 252 0x00) = some .metrics := parse_zeros (f := .metrics) rfl rfl
  simp only [Extension.frameReceived, h, Extension.answerMetrics, hp, Extension.replyError_eq_sendsError]
  split
  · rfl
  · exact e.reply_buffer (by omega) rfl

/-- CONFIGURE_OPTIONS likewise, with OPTIONS_BUF (rule R227). -/
theorem Extension.frameReceived_options (h : e.route rid t = .options) :
    e.frameReceived rid t (List.replicate 252 0x00) =
      if 251 < e.optionsLen.toNat then e.sendsError 0x04
      else { e with framer := e.sending 0x0B (e.optionsLen :: bufferBytes e.mem 0x200 e.optionsLen.toNat) } := by
  have hp : parse .configureOptions (List.replicate 252 0x00) = some .configureOptions :=
    parse_zeros (f := .configureOptions) rfl rfl
  simp only [Extension.frameReceived, h, Extension.answerOptions, hp, Extension.replyError_eq_sendsError]
  split
  · rfl
  · exact e.reply_buffer (by omega) rfl

/-- An addressed request with a malformed body gets Error 0x02, whatever it asks for (rules R222, R224..R227). -/
theorem Extension.frameReceived_malformed_request (hst : e.est = .registered)
    (h : e.route e.extId t = addressedRoute t) (ht : addressedRoute t ≠ .unexpected) (hp : parse t body = none) :
    e.frameReceived e.extId t body = e.sendsError 0x02 := by
  rw [← Extension.replyError_eq_sendsError, Extension.frameReceived, h]
  cases t with
  | initProbe => simp only [addressedRoute, Extension.answerProbe, hp, hst, and_self, if_true]
  | restart => simp only [addressedRoute, Extension.doRestart, hp, if_true]
  | metrics => simp only [addressedRoute, Extension.answerMetrics, hp]
  | configure => simp only [addressedRoute, Extension.storeConfig, hp]
  | configureOptions => simp only [addressedRoute, Extension.answerOptions, hp]
  | init | initProbeResponse | acknowledge | error | metricsResponse | configureOptionsResponse =>
    exact absurd rfl ht

/-- A response type and an addressed INIT get Error 0x03 (rules R223, R228). -/
theorem Extension.frameReceived_unexpected (h : e.route rid t = .unexpected) (body : List Byte) :
    e.frameReceived rid t body = e.sendsError 0x03 := by
  simp only [Extension.frameReceived, h, Extension.replyError_eq_sendsError]

end

end Sys2Proof.Machine
end

section
/-! ## The packet types at a board (41_extension_fsm.md rules R213, R220..R228) -/

namespace Sys2Proof.Machine

/-- Settles O18: in SELECTED only the broadcast INIT has the registration's row. -/
theorem initRegisters : Obligations.InitRegisters := by
  intro s k e body ha hb hst hsel
  have hun : e.est ≠ .registered := by simp [hst]
  have row : e.route 0xFF .init = .register := by simp [Extension.route_unregistered hun, hsel]
  refine ⟨?registered, fun hp => ?malformed, fun rid hrid => ?addressed⟩
  case registered =>
    rintro id hid rfl
    exact exec_packetInstr_board (t := .init) ha hb (Extension.frameReceived_register row hid)
  case malformed =>
    exact exec_packetInstr_dropped (t := .init) ha hb (Extension.frameReceived_register_malformed row hp)
  case addressed =>
    exact exec_packetInstr_no_row (t := .init) ha hb (Extension.route_unregistered_drop hun fun h => hrid h.1) body

/-- Settles O19: in REGISTERED the broadcast INIT has a row only while SEL is asserted. -/
theorem initRetried : Obligations.InitRetried := by
  intro s k e body ha hb hst
  have row : e.selSync = true → e.route 0xFF .init = .reRegister := fun hsel => by
    rw [Extension.route_broadcast hst, if_neg (by decide), if_pos ⟨hsel, rfl⟩]
  refine ⟨?adopted, fun hsel hp => ?malformed, fun hsel => ?released⟩
  case adopted =>
    rintro id hsel hid rfl
    exact exec_packetInstr_board (t := .init) ha hb (Extension.frameReceived_reRegister (row hsel) hid)
  case malformed =>
    exact exec_packetInstr_dropped (t := .init) ha hb (Extension.frameReceived_reRegister_malformed (row hsel) hp)
  case released =>
    have no_row : e.route 0xFF .init = .drop := Extension.route_broadcast_drop hst (by decide) (by simp [hsel])
    exact exec_packetInstr_no_row (t := .init) ha hb no_row body

/-- Settles O20: these types have the row of an unexpected type when they are addressed. -/
theorem unexpectedTypeAnswered : Obligations.UnexpectedTypeAnswered := by
  intro s k e body ha hb hst hid answered
  have answer : ∀ t, addressedRoute t = .unexpected → exec (packetInstr t e.extId body) s = answered := by
    intro t ht
    have row := (Extension.route_addressed hst hid t).trans ht
    exact exec_packetInstr_board ha hb (Extension.frameReceived_unexpected row body)
  exact ⟨answer .initProbeResponse rfl, answer .acknowledge rfl, answer .error rfl, answer .metricsResponse rfl,
    answer .configureOptionsResponse rfl, answer .init rfl⟩

/-- Settles O21: INIT_PROBE has a row exactly when it is accepted (`route_initProbe`). -/
theorem initProbeAnswered : Obligations.InitProbeAnswered := by
  intro s k e rid body ha hb hid accepted
  have row : accepted → e.route rid .initProbe = .probe := fun h =>
    (Extension.route_initProbe hid rid).trans (if_pos h)
  refine ⟨?answered, ?error, fun hacc hp hother => ?malformed, fun hacc => ?dropped⟩
  case answered =>
    rintro hacc rfl
    exact exec_packetInstr_board (t := .initProbe) ha hb (Extension.frameReceived_probe (row hacc))
  case error =>
    rintro hacc hp rfl hst
    exact exec_packetInstr_board (t := .initProbe) ha hb
      (Extension.frameReceived_malformed_request hst (row hacc) (by decide) hp)
  case malformed =>
    exact exec_packetInstr_dropped (t := .initProbe) ha hb
      (Extension.frameReceived_probe_malformed (row hacc) hp hother)
  case dropped =>
    have no_row : e.route rid .initProbe = .drop := (Extension.route_initProbe hid rid).trans (if_neg hacc)
    exact exec_packetInstr_no_row (t := .initProbe) ha hb no_row body

/-- Settles O22: both Receiver-IDs have the row of RESTART. -/
theorem restartUnregisters : Obligations.RestartUnregisters := by
  intro s k e rid body ha hb hst hrid
  have row := Extension.route_restart hst hrid
  refine ⟨?restarted, ?error, fun hp hother => ?malformed⟩
  case restarted =>
    rintro rfl
    exact exec_packetInstr_board (t := .restart) ha hb (Extension.frameReceived_restart row)
  case error =>
    rintro hp rfl
    exact exec_packetInstr_board (t := .restart) ha hb
      (Extension.frameReceived_malformed_request hst row (by decide) hp)
  case malformed =>
    exact exec_packetInstr_dropped (t := .restart) ha hb
      (Extension.frameReceived_restart_malformed row hp hother)

/-- Settles O23: the memory written is `Memory.writeBytes` at 0x300, whose laws give what is read. -/
theorem configureStores : Obligations.ConfigureStores := by
  intro s k e body ha hb hst hid
  have row := Extension.route_addressed hst hid .configure
  refine ⟨?stored, fun hp => ?malformed⟩
  case stored =>
    rintro data hlen rfl
    have parsed : parse .configure (BitVec.ofNat 8 data.length :: data ++ List.replicate (251 - data.length) 0x00) =
        some (.configure data) := congrArg (Option.map Payload.configure) (parseBlob_of_data hlen)
    exact ⟨Memory.writeBytes e.mem 0x300 data,
      exec_packetInstr_board (t := .configure) ha hb (Extension.frameReceived_configure row parsed),
      fun j hj => Memory.read_writeBytes_inside data e.mem 0x300 hj,
      fun a hout => Memory.read_writeBytes_outside data e.mem hout,
      fun hwf => Memory.writeBytes_wf 0x300 data hwf⟩
  case malformed =>
    exact exec_packetInstr_board (t := .configure) ha hb
      (Extension.frameReceived_malformed_request hst row (by decide) hp)

/-- Settles O24: the two requests by the rules of their rows; a malformed one like every addressed request. -/
theorem readRequestsAnswered : Obligations.ReadRequestsAnswered := by
  intro s k e body ha hb hst hid
  have row := Extension.route_addressed hst hid
  have metrics := Extension.frameReceived_metrics (row .metrics)
  have options := Extension.frameReceived_options (row .configureOptions)
  refine ⟨?metricsFit, ?metricsLong, fun hp => ?metricsMalformed, ?optionsFit, ?optionsLong,
    fun hp => ?optionsMalformed⟩
  case metricsFit =>
    rintro rfl hlen
    exact exec_packetInstr_board (t := .metrics) ha hb (metrics.trans (if_neg (Nat.not_lt.2 hlen)))
  case metricsLong =>
    rintro rfl hlen
    exact exec_packetInstr_board (t := .metrics) ha hb (metrics.trans (if_pos hlen))
  case metricsMalformed =>
    exact exec_packetInstr_board (t := .metrics) ha hb
      (Extension.frameReceived_malformed_request hst (row .metrics) (by decide) hp)
  case optionsFit =>
    rintro rfl hlen
    exact exec_packetInstr_board (t := .configureOptions) ha hb (options.trans (if_neg (Nat.not_lt.2 hlen)))
  case optionsLong =>
    rintro rfl hlen
    exact exec_packetInstr_board (t := .configureOptions) ha hb (options.trans (if_pos hlen))
  case optionsMalformed =>
    exact exec_packetInstr_board (t := .configureOptions) ha hb
      (Extension.frameReceived_malformed_request hst (row .configureOptions) (by decide) hp)

/-- Settles O25: each unassigned type is the decode failure UnknownType with its Receiver-ID. -/
theorem decodeFailureAtBoard : Obligations.DecodeFailureAtBoard := by
  intro s k e rid body ha hb
  refine ⟨?unassigned, fun reason hreason => ?other⟩
  case unassigned =>
    rintro answer rfl
    have failed := fun t => congrArg (Host.Outcome.next (φ := Fault) (ρ := Refusal))
      (State.decodeFailed_unknownType_board ha hb rid t)
    exact ⟨failed _, fun _ => failed _, fun _ => failed _, fun _ => failed _, fun _ => failed _, fun _ => failed _⟩
  case other =>
    rw [State.decodeFailed_board ha hb, Extension.decodeFailed_other hreason, State.setBoard_self hb]

end Sys2Proof.Machine
end

section
/-! ## What a board does not answer (41_extension_fsm.md rules R229, R235..R237) -/

namespace Sys2Proof.Machine

/-- Settles O26: a frame for another node has no row. -/
theorem addressFilter : Obligations.AddressFilter := by
  intro s k e rid body ha hb hst hid hbroadcast
  exact ⟨fun t => exec_packetInstr_no_row ha hb (Extension.route_elsewhere hst hid hbroadcast t) body,
    fun t _ => exec_unassignedInstr_dropped ha hb (fun h => hid h.2) t body⟩

/-- A malformed INIT or INIT_PROBE at an unregistered board is dropped, like every other type. -/
theorem Extension.frameReceived_unregistered_malformed {e : Extension} {rid : Byte} {t : PacketType} {body : List Byte}
    (hst : e.est ≠ .registered) (hp : parse t body = none) : e.frameReceived rid t body = e := by
  by_cases hrow : rid = 0xFF ∧ e.selSync = true ∧ (t = .init ∨ t = .initProbe)
  · obtain ⟨rfl, hsel, rfl | rfl⟩ := hrow
    · exact Extension.frameReceived_register_malformed (by simp [Extension.route_unregistered hst, hsel]) hp
    · exact Extension.frameReceived_probe_malformed (by simp [Extension.route_unregistered hst, hsel]) hp
        fun h => hst h.2
  · exact Extension.frameReceived_drop (Extension.route_unregistered_drop hst hrow) body

/-- Settles O27: without SEL an unregistered board has no row at all, and with SEL only the two of INIT and
INIT_PROBE. -/
theorem unregisteredSilence : Obligations.UnregisteredSilence := by
  intro s k e rid body ha hb hst hinv
  refine ⟨fun huninit t => ?uninitialized, fun _ t hother => ?selected,
    fun t _ => exec_unassignedInstr_dropped ha hb (fun h => hst h.1) t body⟩
  case uninitialized =>
    have unselected : e.selSync ≠ true := fun hsel => by simp [hinv.2 hsel] at huninit
    exact exec_packetInstr_no_row ha hb
      (Extension.route_unregistered_drop hst fun ⟨_, hsel, _⟩ => unselected hsel) body
  case selected =>
    by_cases hp : parse t body = none
    · exact exec_packetInstr_dropped ha hb (Extension.frameReceived_unregistered_malformed hst hp)
    · exact exec_packetInstr_no_row ha hb
        (Extension.route_unregistered_drop hst fun ⟨hrid, _, ht⟩ => hother ⟨hrid, ht, hp⟩) body

/-- Settles O28: the other broadcasts have no row, and a broadcast RESTART leaves the framer
(`frameReceived_restart_framer`). -/
theorem broadcastSilence : Obligations.BroadcastSilence := by
  intro s k e body ha hb hst hid
  refine ⟨fun t ht hother => exec_packetInstr_no_row ha hb (Extension.route_broadcast_drop hst ht hother) body,
    ⟨_, exec_packetInstr_board (t := .restart) ha hb rfl, ?restart⟩,
    fun t _ => exec_unassignedInstr_dropped ha hb (fun h => hid h.2.symm) t body⟩
  case restart =>
    exact Extension.frameReceived_restart_framer (Extension.route_restart hst (.inr rfl)) (Ne.symm hid) body

end Sys2Proof.Machine
end

section
/-! ## What a board sends, and its tick (41_extension_fsm.md rules R211, R232, R234) -/

namespace Sys2Proof.Machine

/-! ### The frame handed to the Transport -/

/-- The frame of a response: 256 bytes to the Master, with version and CRC (30_encoding.md rule R130). -/
theorem Extension.sending_outbox {e : Extension} {t : Byte} {payload f : List Byte} (hlen : payload.length ≤ 252)
    (h : (e.sending t payload).outbox = some f) :
    f.length = 256 ∧ f.getD 0 0 = e.params.protocolVersion ∧ f.getD 1 0 = 0x00 ∧
    f.getD 255 0 = crc8 e.params (f.take 255) := by
  obtain rfl : frameBytes e.params 0x00 t (padBody payload) = f := Option.some.inj h
  obtain ⟨hlength, hversion, hrid, -, -, htake, hcrc⟩ :=
    frame_fields (p := e.params) (rid := 0x00) (t := t) (padBody_length hlen)
  exact ⟨hlength, hversion, hrid, by rw [htake, hcrc]⟩

theorem Framer.rxByte_outbox (fr : Framer) (b : Byte) : (fr.rxByte b).1.outbox = fr.outbox := by
  rcases Framer.rxByte_cases fr b with ⟨-, h⟩ | ⟨-, -, h⟩ | ⟨-, -, h⟩ <;> rw [h]

/-- Settles O29: in the step of a frame the framer is left alone or handed one response (`frameReceived_framer`,
`decodeFailed_framer`); every other operation keeps the outbox. -/
theorem repliesToMaster : Obligations.RepliesToMaster := by
  refine ⟨fun e rid t body reason e' f hempty hstep hout => ?frame, Framer.rxByte_outbox, fun e level => ?tick,
    fun e a v => (e.applyWrite_frame a v).1, fun _ => rfl, fun _ _ _ => rfl⟩
  case tick =>
    rw [Extension.tick_eq]
    exact (Framer.gapTick_frame e.framer e.params.tGap).2.2
  case frame =>
    have framer : e'.framer = e.framer ∨ ∃ c pl, pl.length ≤ 252 ∧ e'.framer = e.sending c pl := by
      rcases hstep with rfl | rfl
      · exact e.frameReceived_framer rid t body
      · exact e.decodeFailed_framer reason
    rcases framer with kept | ⟨c, pl, hlen, sent⟩
    · simp [kept, hempty] at hout
    · rw [sent] at hout ⊢
      obtain ⟨hlength, hversion, hrid, hcrc⟩ := Extension.sending_outbox hlen hout
      exact ⟨hlength, hversion, hrid, hcrc, rfl⟩

/-! ### The tick -/

/-- Under the invariant of rule R57 the sampling sets `EST` by the level, edge or not. -/
theorem Extension.sampleSel_eq {e : Extension} (level : Bool)
    (hinv : e.est ≠ .registered → (e.est = .selected ↔ e.selSync = true)) :
    e.sampleSel level = { e with
      selPrev := e.selSync
      selSync := level
      est := if e.est = .registered then .registered else if level then .selected else .uninitialized } := by
  unfold Extension.sampleSel
  by_cases hedge : level = e.selSync
  · subst hedge
    have est : (if e.est = .registered then .registered else if e.selSync then .selected else .uninitialized) =
        e.est := by
      cases hst : e.est with
      | registered => rfl
      | selected =>
        have hsel : e.selSync = true := (hinv (by simp [hst])).1 hst
        simp [hsel]
      | uninitialized =>
        have hsel : e.selSync ≠ true := fun h => by simpa [hst] using (hinv (by simp [hst])).2 h
        simp [hsel]
    simp [est]
  · simp [hedge, Extension.lineEdge]

/-- Settles O30: a tick is the sampling of SEL (`sampleSel_eq`) and the receiver's gap tick (`tick_eq`). -/
theorem boardTick : Obligations.BoardTick := by
  intro e level hinv
  rw [Extension.tick_eq, Extension.sampleSel_eq level hinv]

end Sys2Proof.Machine
end

section
/-! ## The invariant of the Controller, by the state of its machine

`Controller.Inv` speaks of all states at once. A sequence is followed more easily through what holds in one state: the
part that concerns no sequence, what a sequence in progress adds to it, and the transmitter and the timer. -/

namespace Sys2Proof.Machine

/-! ### The parts of the invariant -/

/-- What holds of the Controller whatever its state is. -/
structure Controller.Sound (c : Controller) : Prop where
  params : c.params.ok
  attempts : c.attempts.toNat ≤ c.params.rRetries.toNat + 1
  nextId : c.nextId ≠ 0
  masterAbsent : (c.record 0x00).status = .absent
  freeAbsent : ∀ i : Byte, c.nextId.toNat ≤ i.toNat → (c.record i).status = .absent
  readyBits : c.readySync &&& ~~~lowMask c.params.nslots = 0
  pendingBits : c.pending &&& ~~~lowMask c.params.nslots = 0
  mem : Memory.wf c.mem
  rxBuf : Memory.wf c.framer.rxBuf

/-- The ID was given out (42_controller_registration.md rule R263). -/
abbrev Controller.Issued (c : Controller) (i : Byte) : Prop := assignable i ∧ i.toNat < c.nextId.toNat

/-- What a registration in progress adds. -/
structure Controller.Registering (c : Controller) : Prop extends c.Sound where
  going : c.attempts.toNat ≤ c.params.rRetries.toNat
  sel : c.selOut = 1#32 <<< c.curSlot.toNat
  slot : c.curSlot.toNat < c.params.nslots
  id : c.Issued c.curId

/-- What a command in progress adds; only PROBE has a slot. -/
structure Controller.Commanding (c : Controller) : Prop extends c.Sound where
  going : c.attempts.toNat ≤ c.params.rRetries.toNat
  sel : c.selOut = if c.curOpc = 0x05 then 1#32 <<< c.curSlot.toNat else 0
  slot : c.curOpc = 0x05 → c.curSlot.toNat < c.params.nslots
  target : c.curOpc ≠ 0x05 → (c.curOpc = 0x04 ∧ c.curId = 0xFF) ∨ c.Issued c.curId

/-- Neither a transmission nor the response timer is in progress. -/
abbrev Controller.Quiet (c : Controller) : Prop := c.framer.txBusy = false ∧ c.timerArmed = false

abbrev Controller.Sending (c : Controller) : Prop := c.framer.txBusy = true ∧ c.timerArmed = false

abbrev Controller.Waiting (c : Controller) : Prop :=
  c.framer.txBusy = false ∧ c.timerArmed = true ∧
    1 ≤ c.timerCount.toNat ∧ c.timerCount.toNat ≤ c.params.tTimeout.toNat

abbrev Controller.Settling (c : Controller) : Prop :=
  c.Quiet ∧ 1 ≤ c.settleCount.toNat ∧ c.settleCount.toNat ≤ c.params.tSettle.toNat

/-- The invariant in the state `st`. -/
abbrev Controller.InvAt (c : Controller) : CState → Prop
  | .idle => c.Sound ∧ c.selOut = 0 ∧ c.Quiet
  | .regSettle => c.Registering ∧ c.Settling
  | .regTx => c.Registering ∧ c.Sending
  | .regWait => c.Registering ∧ c.Waiting
  | .cmdSettle => c.Commanding ∧ c.curOpc = 0x05 ∧ c.Settling
  | .cmdTx => c.Commanding ∧ c.Sending
  | .cmdWait => c.Commanding ∧ c.Waiting

theorem Controller.Inv.sound {c : Controller} (h : c.Inv) : c.Sound :=
  { h with }

theorem Controller.Inv.registering {c : Controller} (h : c.Inv) (hreg : c.cst.isReg = true) : c.Registering where
  toSound := h.sound
  going := h.attemptsGoing fun hidle => by simp [hidle, CState.isReg] at hreg
  sel := h.sel.trans (if_pos (.inl hreg))
  slot := h.slot (.inl hreg)
  id := h.regId hreg

theorem Controller.Inv.commanding {c : Controller} (h : c.Inv) (hcmd : c.cst.isCmd = true) : c.Commanding where
  toSound := h.sound
  going := h.attemptsGoing fun hidle => by simp [hidle, CState.isCmd] at hcmd
  sel := by
    have hreg : c.cst.isReg = false := by cases hst : c.cst <;> simp_all [CState.isReg, CState.isCmd]
    rw [h.sel, Controller.expectedSel]
    simp only [Controller.inSlotSequence, hreg, hcmd, Bool.false_eq_true, true_and, false_or]
  slot := fun hopc => h.slot (.inr ⟨hcmd, hopc⟩)
  target := h.cmdId hcmd

/-- The invariant, taken apart. -/
theorem Controller.Inv.invAt {c : Controller} (h : c.Inv) : c.InvAt c.cst := by
  have busy := h.busy
  have timer := h.timer
  have left := h.timerLeft
  have settle := h.settleLeft
  cases hst : c.cst <;>
    simp only [hst, reduceCtorEq, or_self, or_false, or_true, iff_false, iff_true, Bool.not_eq_true,
      forall_const] at busy timer settle
  case idle =>
    exact ⟨h.sound, h.sel.trans (if_neg (by simp [Controller.inSlotSequence, hst, CState.isReg, CState.isCmd])),
      busy, timer⟩
  case regSettle => exact ⟨h.registering (by rw [hst]; rfl), ⟨busy, timer⟩, settle⟩
  case regTx => exact ⟨h.registering (by rw [hst]; rfl), busy, timer⟩
  case regWait => exact ⟨h.registering (by rw [hst]; rfl), busy, timer, left timer⟩
  case cmdSettle => exact ⟨h.commanding (by rw [hst]; rfl), h.cmdSettle hst, ⟨busy, timer⟩, settle⟩
  case cmdTx => exact ⟨h.commanding (by rw [hst]; rfl), busy, timer⟩
  case cmdWait => exact ⟨h.commanding (by rw [hst]; rfl), busy, timer, left timer⟩

theorem Controller.Sound.broadcastAbsent {c : Controller} (h : c.Sound) : (c.record 0xFF).status = .absent :=
  h.freeAbsent 0xFF (Nat.le_of_lt_succ c.nextId.isLt)

theorem Controller.Sound.inv_of_idle {c : Controller} (h : c.Sound) (hst : c.cst = .idle) (hsel : c.selOut = 0)
    (hq : c.Quiet) : c.Inv := by
  obtain ⟨hbusy, htimer⟩ := hq
  exact { h with
    broadcastAbsent := h.broadcastAbsent
    sel := by simp [hsel, Controller.expectedSel, Controller.inSlotSequence, hst, CState.isReg, CState.isCmd]
    slot := by simp [Controller.inSlotSequence, hst, CState.isReg, CState.isCmd]
    busy := by simp [hst, hbusy]
    timer := by simp [hst, htimer]
    timerLeft := by simp [htimer]
    settleLeft := by simp [hst]
    cmdSettle := by simp [hst]
    attemptsGoing := by simp [hst]
    regId := by simp [hst, CState.isReg]
    cmdId := by simp [hst, CState.isCmd] }

/-- The transmitter, the timer and the settle count are as the state asks for. -/
structure Controller.Timed (c : Controller) : Prop where
  busy : c.framer.txBusy = true ↔ c.cst = .regTx ∨ c.cst = .cmdTx
  timer : c.timerArmed = true ↔ c.cst = .regWait ∨ c.cst = .cmdWait
  timerLeft : c.timerArmed = true → 1 ≤ c.timerCount.toNat ∧ c.timerCount.toNat ≤ c.params.tTimeout.toNat
  settleLeft : c.cst = .regSettle ∨ c.cst = .cmdSettle →
    1 ≤ c.settleCount.toNat ∧ c.settleCount.toNat ≤ c.params.tSettle.toNat

theorem Controller.Settling.timed {c : Controller} (h : c.Settling) (hst : c.cst = .regSettle ∨ c.cst = .cmdSettle) :
    c.Timed := by
  obtain ⟨⟨hbusy, htimer⟩, hleft⟩ := h
  constructor <;> rcases hst with hst | hst <;> simp [hst, hbusy, htimer, hleft]

theorem Controller.Sending.timed {c : Controller} (h : c.Sending) (hst : c.cst = .regTx ∨ c.cst = .cmdTx) :
    c.Timed := by
  obtain ⟨hbusy, htimer⟩ := h
  constructor <;> rcases hst with hst | hst <;> simp [hst, hbusy, htimer]

theorem Controller.Waiting.timed {c : Controller} (h : c.Waiting) (hst : c.cst = .regWait ∨ c.cst = .cmdWait) :
    c.Timed := by
  obtain ⟨hbusy, htimer, hleft⟩ := h
  constructor <;> rcases hst with hst | hst <;> simp [hst, hbusy, htimer, hleft]

theorem Controller.Registering.inv {c : Controller} (h : c.Registering) (ht : c.Timed) (hreg : c.cst.isReg = true) :
    c.Inv :=
  have hcmd : c.cst.isCmd = false := by cases hst : c.cst <;> simp_all [CState.isReg, CState.isCmd]
  { h, ht with
    broadcastAbsent := h.toSound.broadcastAbsent
    sel := h.sel.trans (if_pos (.inl hreg)).symm
    slot := fun _ => h.slot
    cmdSettle := fun hst => by simp [hst, CState.isReg] at hreg
    attemptsGoing := fun _ => h.going
    regId := fun _ => h.id
    cmdId := fun hc => by simp [hcmd] at hc }

theorem Controller.Commanding.inv {c : Controller} (h : c.Commanding) (ht : c.Timed) (hcmd : c.cst.isCmd = true)
    (hsettle : c.cst = .cmdSettle → c.curOpc = 0x05) : c.Inv :=
  have hreg : c.cst.isReg = false := by cases hst : c.cst <;> simp_all [CState.isReg, CState.isCmd]
  have hslot : c.inSlotSequence ↔ c.curOpc = 0x05 := by simp [Controller.inSlotSequence, hreg, hcmd]
  { h, ht with
    broadcastAbsent := h.toSound.broadcastAbsent
    sel := by rw [h.sel, Controller.expectedSel, if_congr hslot rfl rfl]
    slot := fun hseq => h.slot (hslot.1 hseq)
    cmdSettle := hsettle
    attemptsGoing := fun _ => h.going
    regId := fun hr => by simp [hreg] at hr
    cmdId := fun _ => h.target }

/-- The invariant, put together. -/
theorem Controller.inv_of_invAt {c : Controller} (h : c.InvAt c.cst) : c.Inv := by
  cases hst : c.cst <;> rw [hst] at h
  case idle => exact h.1.inv_of_idle hst h.2.1 h.2.2
  case regSettle => exact h.1.inv (h.2.timed (.inl hst)) (by rw [hst]; rfl)
  case regTx => exact h.1.inv (Sending.timed h.2 (.inl hst)) (by rw [hst]; rfl)
  case regWait => exact h.1.inv (Waiting.timed h.2 (.inl hst)) (by rw [hst]; rfl)
  case cmdSettle => exact h.1.inv (h.2.2.timed (.inr hst)) (by rw [hst]; rfl) fun _ => h.2.1
  case cmdTx => exact h.1.inv (Sending.timed h.2 (.inr hst)) (by rw [hst]; rfl) fun hs => by simp [hst] at hs
  case cmdWait => exact h.1.inv (Waiting.timed h.2 (.inr hst)) (by rw [hst]; rfl) fun hs => by simp [hst] at hs

/-- What the invariant says in the state `st`. -/
theorem Controller.inv_iff {c : Controller} {st : CState} (hst : c.cst = st) : c.Inv ↔ c.InvAt st :=
  hst ▸ ⟨Controller.Inv.invAt, Controller.inv_of_invAt⟩

end Sys2Proof.Machine
end

section
/-! ## The Controller keeps its invariant

The operations of its sequences, then what an event does, then what `arbitrate()` does. -/

namespace Sys2Proof.Machine

/-! ### The Registry and the Selection-Lines -/

theorem setBit_shiftLeft_false (k : Nat) : setBit (1#32 <<< k) k false = 0 := by
  simp [setBit]

theorem setBit_zero_true (k : Nat) : setBit 0 k true = 1#32 <<< k := by
  simp [setBit]

/-- A bit that is cleared leaves the bits outside a mask clear. -/
theorem setBit_false_and {v m : BitVec 32} (h : v &&& m = 0) (k : Nat) : setBit v k false &&& m = 0 := by
  have clear : v &&& ~~~(1#32 <<< k) &&& m = (v &&& m) &&& ~~~(1#32 <<< k) := by ac_rfl
  simp [setBit, clear, h]

/-- Under a mask nothing is left outside it. -/
theorem masked_and_not (v m : BitVec 32) : v &&& m &&& ~~~m = 0 := by
  rw [BitVec.and_assoc]
  simp

/-- An attempt that is counted does not wrap: R_RETRIES has 8 bits and `attempts` has 9. -/
theorem Controller.attempts_succ {c : Controller} (h : c.attempts.toNat ≤ c.params.rRetries.toNat) :
    (c.attempts + 1).toNat = c.attempts.toNat + 1 :=
  BitVec.toNat_add_of_lt (Nat.lt_of_le_of_lt (Nat.succ_le_succ (Nat.le_trans h (Nat.le_of_lt_succ
    c.params.rRetries.isLt))) (by decide))

/-- A Registry in which the same entries are ABSENT. -/
theorem Controller.Sound.of_records {c d : Controller} (h : c.Sound)
    (hrec : ∀ i, (c.record i).status = .absent → (d.record i).status = .absent)
    (hd : d = { c with registry := d.registry }) : d.Sound := by
  rw [hd] at hrec ⊢
  exact { h with
    masterAbsent := hrec _ h.masterAbsent
    freeAbsent := fun i hi => hrec _ (h.freeAbsent i hi) }

theorem Controller.Sound.setRecord {c : Controller} {i : Byte} (h : c.Sound) (hi : c.Issued i) (r : Record) :
    (c.setRecord i r).Sound := by
  obtain ⟨⟨hmaster, -⟩, hlt⟩ := hi
  have others : ∀ j, j ≠ i → ((c.setRecord i r).record j) = c.record j := fun j hj => by
    rw [Controller.record_setRecord, if_neg hj]
  exact { h with
    masterAbsent := (congrArg Record.status (others 0x00 (Ne.symm hmaster))).trans h.masterAbsent
    freeAbsent := fun j hj => by
      have hne : j ≠ i := fun e => Nat.not_lt.2 hj (e ▸ hlt)
      rw [others j hne]
      exact h.freeAbsent j hj }

theorem Controller.Sound.touch {c : Controller} (h : c.Sound) (i : Byte) : (c.touch i).Sound :=
  h.of_records (fun j hj => by rw [Controller.record_touch]; split <;> exact hj) rfl

/-- A change of the Registry that leaves the entries that are ABSENT. -/
theorem Controller.Sound.mapRegistry {c : Controller} (h : c.Sound) {f : Record → Record}
    (hf : ∀ r, r.status = .absent → (f r).status = .absent) :
    Controller.Sound { c with registry := mapRegistry f c.registry } :=
  h.of_records (fun j hj => by simpa only [Controller.record, mapRegistry_getElem] using hf _ hj) rfl

/-! ### The ends of a sequence -/

theorem Controller.Sound.complete_inv {c : Controller} (h : c.Sound) (hsel : c.selOut = 0)
    (hbusy : c.framer.txBusy = false) (r : ResultCode) (info : Byte) (data : List Byte) :
    (c.complete r info data).Inv :=
  (Controller.inv_iff rfl).2 ⟨{ h with mem := Memory.writeBytes_wf _ _ h.mem }, hsel, hbusy, rfl⟩

/-- A command that is not a PROBE has asserted no SEL. -/
theorem Controller.Commanding.selOut_of_ne {c : Controller} (h : c.Commanding) (hopc : c.curOpc ≠ 0x05) :
    c.selOut = 0 := by
  rw [h.sel, if_neg hopc]

/-- The end of a PROBE clears its SEL. -/
theorem Controller.Commanding.setBit_selOut {c : Controller} (h : c.Commanding) (hopc : c.curOpc = 0x05) :
    setBit c.selOut c.curSlot.toNat false = 0 := by
  rw [h.sel, if_pos hopc, setBit_shiftLeft_false]

theorem Controller.Registering.setBit_selOut {c : Controller} (h : c.Registering) :
    setBit c.selOut c.curSlot.toNat false = 0 := by
  rw [h.sel, setBit_shiftLeft_false]

theorem Controller.Registering.registrationDone_inv {c : Controller} (h : c.Registering)
    (hbusy : c.framer.txBusy = false) : c.registrationDone.Inv := by
  have stored := h.toSound.setRecord h.id { status := .registered, last := c.now }
  exact (Controller.inv_iff rfl).2 ⟨{ stored with }, h.setBit_selOut, hbusy, rfl⟩

/-! ### Failed attempts -/

/-- Another attempt is within R_RETRIES (10_state.md rule R32). -/
theorem Controller.Sound.count {c : Controller} (h : c.Sound) (hgoing : c.attempts.toNat ≤ c.params.rRetries.toNat) :
    Controller.Sound { c with attempts := c.attempts + 1 } :=
  { h with attempts := by rw [Controller.attempts_succ hgoing]; exact Nat.succ_le_succ hgoing }

theorem Controller.Registering.regAttemptFailed_inv {c : Controller} (h : c.Registering) (hq : c.Quiet) :
    c.regAttemptFailed.Inv := by
  obtain ⟨hbusy, htimer⟩ := hq
  have counted := h.toSound.count h.going
  rw [Controller.regAttemptFailed_eq]
  split
  next hleft => exact (Controller.inv_iff rfl).2 ⟨{ counted, h with going := hleft }, rfl, htimer⟩
  next =>
    have stored := counted.setRecord (i := c.curId) h.id { c.record c.curId with status := .unresponsive }
    exact (Controller.inv_iff rfl).2 ⟨{ stored with }, h.setBit_selOut, hbusy, htimer⟩

theorem Controller.Commanding.cmdAttemptFailed_inv {c : Controller} (h : c.Commanding) (hq : c.Quiet) :
    c.cmdAttemptFailed.Inv := by
  obtain ⟨hbusy, htimer⟩ := hq
  have counted := h.toSound.count h.going
  unfold Controller.cmdAttemptFailed
  dsimp only
  split
  next hleft => exact (Controller.inv_iff rfl).2 ⟨{ counted, h with going := hleft }, rfl, htimer⟩
  split
  next hopc =>
    exact Controller.Sound.complete_inv (c := Controller.setSel { c with attempts := c.attempts + 1 } _ false)
      { counted with } (h.setBit_selOut hopc) hbusy _ _ _
  next hopc =>
  split
  next => exact counted.complete_inv (h.selOut_of_ne hopc) hbusy _ _ _
  next hrestart =>
    have issued : c.Issued c.curId := (h.target hopc).resolve_left fun e => hrestart e.1
    exact Controller.Sound.complete_inv (counted.setRecord (i := c.curId) issued _) (h.selOut_of_ne hopc) hbusy _ _ _

/-! ### The ends of a command -/

theorem Controller.Commanding.restartSent_inv {c : Controller} (h : c.Commanding) (hopc : c.curOpc = 0x04)
    (hbusy : c.framer.txBusy = false) : c.restartSent.Inv := by
  have hne : c.curOpc ≠ 0x05 := by rw [hopc]; decide
  unfold Controller.restartSent
  dsimp only
  split
  next =>
    have kept := h.toSound.mapRegistry (f := fun r =>
      if r.status = .registered ∨ r.status = .unresponsive then { r with status := .unregistered } else r)
      fun r hr => by simp [hr]
    exact kept.complete_inv (h.selOut_of_ne hne) hbusy _ _ _
  next hall =>
    have issued : c.Issued c.curId := (h.target hne).resolve_left fun e => hall e.2
    exact Controller.Sound.complete_inv (h.toSound.setRecord issued _) (h.selOut_of_ne hne) hbusy _ _ _

theorem Controller.Commanding.success_inv {c : Controller} (h : c.Commanding) (hbusy : c.framer.txBusy = false)
    (f : Payload) : (c.success f).Inv := by
  unfold Controller.success
  split
  next hopc =>
    have ended : ∀ info data, ((c.setSel c.curSlot.toNat false).complete .ok info data).Inv := fun info data =>
      Controller.Sound.complete_inv (c := c.setSel c.curSlot.toNat false) { h with } (h.setBit_selOut hopc) hbusy
        _ _ _
    dsimp only
    split
    · split <;> exact ended _ _
    · exact ended _ _
  next hopc =>
    have touched : ∀ data, ((c.touch c.curId).complete .ok 0 data).Inv := fun data =>
      (h.toSound.touch c.curId).complete_inv (h.selOut_of_ne hopc) hbusy _ _ _
    split <;> exact touched _

theorem Controller.Commanding.rejected_inv {c : Controller} (h : c.Commanding) (hbusy : c.framer.txBusy = false)
    (code : Byte) : (c.rejected code).Inv := by
  unfold Controller.rejected
  dsimp only
  split
  next hopc =>
    exact Controller.Sound.complete_inv (c := c.setSel c.curSlot.toNat false) { h with } (h.setBit_selOut hopc) hbusy
      _ _ _
  next hopc => exact h.toSound.complete_inv (h.selOut_of_ne hopc) hbusy _ _ _

/-! ### The events of the Controller -/

theorem Controller.Inv.frameReceived {c : Controller} (h : c.Inv) (rid : Byte) (t : PacketType) (body : List Byte) :
    (c.frameReceived rid t body).Inv := by
  unfold Controller.frameReceived
  split
  · exact h
  cases hst : c.cst with
  | regWait =>
    obtain ⟨hreg, hbusy, -⟩ := (Controller.inv_iff hst).1 h
    dsimp only
    split
    · exact hreg.registrationDone_inv hbusy
    · exact h
  | cmdWait =>
    obtain ⟨hcmd, hbusy, -⟩ := (Controller.inv_iff hst).1 h
    dsimp only
    split
    · exact h
    split
    · exact hcmd.success_inv hbusy _
    split
    · exact hcmd.rejected_inv hbusy _
    · exact h
  | idle | regSettle | regTx | cmdSettle | cmdTx => exact h

theorem Controller.Inv.decodeFailed {c : Controller} (h : c.Inv) (reason : DecodeError) :
    (c.decodeFailed reason).Inv := by
  cases reason with
  | checksumMismatch crc =>
    unfold Controller.decodeFailed
    dsimp only
    split
    next hst =>
      obtain ⟨hcmd, hbusy, -⟩ := (Controller.inv_iff hst).1 h
      exact Controller.Commanding.cmdAttemptFailed_inv (c := c.disarm) { hcmd with } ⟨hbusy, rfl⟩
    next => exact h
  | lengthMismatch | versionMismatch | unknownType => exact h

/-- What is received changes of the framer only its buffer and its counts. -/
theorem Controller.Inv.withFramer {c : Controller} (h : c.Inv) {fr : Framer} (hbusy : fr.txBusy = c.framer.txBusy)
    (hbuf : Memory.wf fr.rxBuf) : Controller.Inv { c with framer := fr } :=
  { h with
    busy := (iff_of_eq (congrArg (· = true) hbusy)).trans h.busy
    rxBuf := hbuf }

/-- Outside the two transmitting states the end of a transmission has nothing to clear. -/
theorem Controller.Inv.endSend {c : Controller} (h : c.Inv) (hreg : c.cst ≠ .regTx) (hcmd : c.cst ≠ .cmdTx) :
    Controller.Inv { c with framer := c.framer.endSend } := by
  have free : c.framer.txBusy = false :=
    Bool.eq_false_iff.2 fun hbusy => (h.busy.1 hbusy).elim hreg hcmd
  exact h.withFramer free.symm h.rxBuf

theorem Controller.Inv.txDone {c : Controller} (h : c.Inv) : c.txDone.Inv := by
  have one_le : 1 ≤ c.params.tTimeout.toNat := by
    obtain ⟨htimeout, -⟩ := h.params
    bv_omega
  by_cases hreg : c.cst = .regTx
  · obtain ⟨hseq, -⟩ := (Controller.inv_iff hreg).1 h
    rw [Controller.txDone_awaits (.inl hreg), if_pos hreg]
    exact (Controller.inv_iff rfl).2 ⟨{ hseq with }, rfl, rfl, one_le, Nat.le_refl _⟩
  by_cases hcmd : c.cst = .cmdTx
  · obtain ⟨hseq, -⟩ := (Controller.inv_iff hcmd).1 h
    by_cases hopc : c.curOpc = 0x04
    · have sent : c.txDone = Controller.restartSent { c with framer := c.framer.endSend } := by
        unfold Controller.txDone
        rw [hcmd]
        exact if_pos hopc
      rw [sent]
      exact Controller.Commanding.restartSent_inv { hseq with } hopc rfl
    · rw [Controller.txDone_awaits (.inr ⟨hcmd, hopc⟩), if_neg hreg]
      exact (Controller.inv_iff rfl).2 ⟨{ hseq with }, rfl, rfl, one_le, Nat.le_refl _⟩
  · rw [(Controller.end_outside_tx hreg hcmd).1]
    exact h.endSend hreg hcmd

theorem Controller.txError_regTx {c : Controller} (h : c.cst = .regTx) :
    c.txError = Controller.regAttemptFailed { c with framer := c.framer.endSend } := by
  unfold Controller.txError
  rw [h]

theorem Controller.txError_cmdTx {c : Controller} (h : c.cst = .cmdTx) :
    c.txError = Controller.cmdAttemptFailed { c with framer := c.framer.endSend } := by
  unfold Controller.txError
  rw [h]

theorem Controller.Inv.txError {c : Controller} (h : c.Inv) : c.txError.Inv := by
  by_cases hreg : c.cst = .regTx
  · obtain ⟨hseq, -, htimer⟩ := (Controller.inv_iff hreg).1 h
    rw [Controller.txError_regTx hreg]
    exact Controller.Registering.regAttemptFailed_inv { hseq with } ⟨rfl, htimer⟩
  by_cases hcmd : c.cst = .cmdTx
  · obtain ⟨hseq, -, htimer⟩ := (Controller.inv_iff hcmd).1 h
    rw [Controller.txError_cmdTx hcmd]
    exact Controller.Commanding.cmdAttemptFailed_inv { hseq with } ⟨rfl, htimer⟩
  · rw [(Controller.end_outside_tx hreg hcmd).2]
    exact h.endSend hreg hcmd

/-! ### A tick of the Controller -/

theorem Controller.timeout_regWait {c : Controller} (h : c.cst = .regWait) : c.timeout = c.regAttemptFailed := by
  unfold Controller.timeout
  rw [h]

theorem Controller.timeout_cmdWait {c : Controller} (h : c.cst = .cmdWait) : c.timeout = c.cmdAttemptFailed := by
  unfold Controller.timeout
  rw [h]

theorem Controller.Registering.timeout_inv {c : Controller} (h : c.Registering) (hst : c.cst = .regWait)
    (hq : c.Quiet) : c.timeout.Inv := by
  rw [Controller.timeout_regWait hst]
  exact h.regAttemptFailed_inv hq

theorem Controller.Commanding.timeout_inv {c : Controller} (h : c.Commanding) (hst : c.cst = .cmdWait)
    (hq : c.Quiet) : c.timeout.Inv := by
  rw [Controller.timeout_cmdWait hst]
  exact h.cmdAttemptFailed_inv hq

/-- Of a bit set masked by `m`, what is added under the mask and cleared leaves the bits outside it clear. -/
theorem or_and_and_not {v x y m : BitVec 32} (hv : v &&& ~~~m = 0) (hx : x &&& ~~~m = 0) :
    (v ||| x) &&& y &&& ~~~m = 0 := by
  have under : (v ||| x) &&& y &&& ~~~m = (v &&& ~~~m ||| x &&& ~~~m) &&& y := by
    ext i hi
    simp only [BitVec.getElem_and, BitVec.getElem_or, BitVec.getElem_not]
    cases v[i] <;> cases x[i] <;> cases y[i] <;> cases m[i] <;> rfl
  rw [under, hv, hx]
  simp

theorem Controller.Inv.sampleReady {c : Controller} (h : c.Inv) (levels : BitVec 32) : (c.sampleReady levels).Inv := by
  have masked := masked_and_not levels (lowMask c.params.nslots)
  have rising : levels &&& lowMask c.params.nslots &&& ~~~c.readySync &&& ~~~lowMask c.params.nslots = 0 := by
    rw [BitVec.and_assoc, BitVec.and_comm (~~~c.readySync), ← BitVec.and_assoc, masked]
    exact BitVec.zero_and
  exact { h with
    readyBits := masked
    pendingBits := or_and_and_not h.pendingBits rising }

theorem Controller.Inv.tickGap {c : Controller} (h : c.Inv) : c.tickGap.Inv := by
  obtain ⟨hbuf, hbusy, -⟩ := Framer.gapTick_frame c.framer c.params.tGap
  rw [Controller.tickGap_eq]
  exact h.withFramer hbusy (hbuf ▸ h.rxBuf)

/-- A settle wait that goes on has a tick left. -/
theorem settle_left {n t : BitVec 16} (h : n.toNat ≤ t.toNat) (hn : 1 ≤ n.toNat) (hne : n - 1 ≠ 0) :
    1 ≤ (n - 1).toNat ∧ (n - 1).toNat ≤ t.toNat := by
  bv_omega

theorem Controller.Inv.tickSettle {c : Controller} (h : c.Inv) : c.tickSettle.Inv := by
  unfold Controller.tickSettle
  cases hst : c.cst with
  | regSettle =>
    obtain ⟨hseq, ⟨hbusy, htimer⟩, hleft, hmax⟩ := (Controller.inv_iff hst).1 h
    dsimp only
    split
    · exact (Controller.inv_iff rfl).2 ⟨{ hseq with }, rfl, htimer⟩
    next hne =>
      exact (Controller.inv_iff rfl).2 ⟨{ hseq with }, ⟨hbusy, htimer⟩, settle_left hmax hleft hne⟩
  | cmdSettle =>
    obtain ⟨hseq, hopc, ⟨hbusy, htimer⟩, hleft, hmax⟩ := (Controller.inv_iff hst).1 h
    dsimp only
    split
    · exact (Controller.inv_iff rfl).2 ⟨{ hseq with }, rfl, htimer⟩
    next hne =>
      exact (Controller.inv_iff rfl).2 ⟨{ hseq with }, hopc, ⟨hbusy, htimer⟩, settle_left hmax hleft hne⟩
  | idle | regTx | regWait | cmdTx | cmdWait => exact h

theorem Controller.Inv.tickTimer {c : Controller} (h : c.Inv) : c.tickTimer.Inv := by
  unfold Controller.tickTimer
  split
  next harmed =>
    have hleft := h.timerLeft harmed
    dsimp only
    split
    next =>
      rcases h.timer.1 harmed with hst | hst
      · obtain ⟨hseq, hbusy, -⟩ := (Controller.inv_iff hst).1 h
        exact Controller.Registering.timeout_inv { hseq with } hst ⟨hbusy, rfl⟩
      · obtain ⟨hseq, hbusy, -⟩ := (Controller.inv_iff hst).1 h
        exact Controller.Commanding.timeout_inv { hseq with } hst ⟨hbusy, rfl⟩
    next hne =>
      have left : 1 ≤ (c.timerCount - 1).toNat ∧ (c.timerCount - 1).toNat ≤ c.params.tTimeout.toNat := by
        bv_omega
      exact { h with timerLeft := fun _ => left }
  next => exact h

theorem Controller.Inv.tick {c : Controller} (h : c.Inv) (levels : BitVec 32) : (c.tick levels).Inv := by
  have counted : Controller.Inv { c with now := c.now + 1 } := { h with }
  exact (counted.sampleReady levels).tickGap.tickSettle.tickTimer

theorem Controller.Inv.applyWrite {c : Controller} (h : c.Inv) (a : Nat) (v : Word) : (c.applyWrite a v).Inv := by
  unfold Controller.applyWrite
  split
  · unfold Controller.issueCommand
    split <;> exact { h with }
  split
  · exact { h with }
  split
  · exact { h with }
  split
  · exact { h with mem := Memory.writeBytes_wf _ _ h.mem }
  · exact h

/-! ### Reset -/

/-- The reset values meet the invariant, whatever the buffers hold (70_reset_and_hazards.md rule R401). -/
theorem Controller.reset_inv {p : Params} (hp : p.ok) (levels : BitVec 32) {rx mem : Memory} (tx : List Byte)
    (hrx : Memory.wf rx) (hmem : Memory.wf mem) :
    (Controller.reset p (levels &&& lowMask p.nslots) rx tx mem).Inv := by
  have masked := masked_and_not levels (lowMask p.nslots)
  have absent : ∀ i, ((Controller.reset p (levels &&& lowMask p.nslots) rx tx mem).record i).status = .absent :=
    fun i => by simp [Controller.record, Controller.reset]
  exact (Controller.inv_iff rfl).2 ⟨{
    params := hp
    attempts := Nat.zero_le _
    nextId := (by decide : (0x01 : Byte) ≠ 0)
    masterAbsent := absent _
    freeAbsent := fun i _ => absent i
    readyBits := masked
    pendingBits := masked
    mem := hmem
    rxBuf := hrx }, rfl, rfl, rfl⟩

/-! ### Arbitration -/

theorem Controller.Registering.settleOrSend_inv {c : Controller} (h : c.Registering) (hq : c.Quiet) :
    c.settleOrSend.Inv := by
  obtain ⟨hbusy, htimer⟩ := hq
  unfold Controller.settleOrSend
  split
  next => exact (Controller.inv_iff rfl).2 ⟨{ h with }, rfl, htimer⟩
  next hne =>
    have one_le : 1 ≤ c.params.tSettle.toNat := by bv_omega
    exact (Controller.inv_iff rfl).2 ⟨{ h with }, ⟨hbusy, htimer⟩, one_le, Nat.le_refl _⟩

theorem Controller.lowestPending_lt {c : Controller} {k : Nat} (h : c.lowestPending = some k) : k < c.params.nslots :=
  List.mem_range.1 (List.mem_of_find?_eq_some h)

/-- A slot number is held in the 5 bits of `cur_slot`, as NSLOTS is at most 32. -/
theorem toNat_slot {k : Nat} (h : k < 32) : (BitVec.ofNat 5 k).toNat = k :=
  Nat.mod_eq_of_lt h

/-- The start of a registration when the last ID was given out (42_controller_registration.md rules R262, R263). -/
theorem Controller.startRegistration_exhausted {c : Controller} (h : c.nextId = 0xFF) (k : Nat) :
    c.startRegistration k = { c with
      curSlot := BitVec.ofNat 5 k
      pending := setBit c.pending k false
      selOut := setBit (setBit c.selOut k true) (BitVec.ofNat 5 k).toNat false
      evtOvf := c.evtOvf || c.regEvt
      regEvent := { kind := .idExhausted, slot := (BitVec.ofNat 5 k).setWidth 8, id := 0x00 }
      regEvt := true
      cst := .idle } :=
  if_pos h

/-- And with the next ID (rules R262, R263, R264). -/
theorem Controller.startRegistration_next {c : Controller} (h : c.nextId ≠ 0xFF) (k : Nat) :
    c.startRegistration k = Controller.settleOrSend { c.setStatus c.nextId .registering with
      curSlot := BitVec.ofNat 5 k
      pending := setBit c.pending k false
      selOut := setBit c.selOut k true
      curId := c.nextId
      nextId := c.nextId + 1
      attempts := 0
      txFrame := packetFrame c.params broadcastId (.init c.nextId) } :=
  if_neg h

/-- While an ID is left, the next one is one more. -/
theorem toNat_nextId_succ {i : Byte} (h : i ≠ 0xFF) : (i + 1).toNat = i.toNat + 1 := by
  bv_omega

/-- The ID that is given out next (42_controller_registration.md rule R263). -/
theorem Controller.Sound.giveId {c : Controller} (h : c.Sound) (hleft : c.nextId ≠ 0xFF) :
    Controller.Sound { c with nextId := c.nextId + 1 } :=
  { h with
    nextId := fun hz => by
      have := toNat_nextId_succ hleft
      rw [show c.nextId + 1 = 0 from hz] at this
      cases this
    freeAbsent := fun i hi => h.freeAbsent i (by
      rw [toNat_nextId_succ hleft] at hi
      exact Nat.le_of_succ_le hi) }

theorem Controller.Inv.startRegistration {c : Controller} (h : c.Inv) (hst : c.cst = .idle) {k : Nat}
    (hk : k < c.params.nslots) : (c.startRegistration k).Inv := by
  obtain ⟨sound, hsel, hquiet⟩ := (Controller.inv_iff hst).1 h
  obtain ⟨-, -, hslots, -⟩ := h.params
  have slot : (BitVec.ofNat 5 k).toNat = k := toNat_slot (Nat.lt_of_lt_of_le hk hslots)
  have asserted : setBit c.selOut k true = 1#32 <<< (BitVec.ofNat 5 k).toNat := by rw [hsel, slot, setBit_zero_true]
  have pending := setBit_false_and h.pendingBits k
  by_cases hlast : c.nextId = 0xFF
  · have released : setBit (setBit c.selOut k true) (BitVec.ofNat 5 k).toNat false = 0 := by
      rw [asserted, setBit_shiftLeft_false]
    rw [Controller.startRegistration_exhausted hlast]
    exact (Controller.inv_iff rfl).2 ⟨{ sound with pendingBits := pending }, released, hquiet⟩
  · have given := sound.giveId hlast
    have issued : Controller.Issued { c with nextId := c.nextId + 1 } c.nextId :=
      ⟨⟨h.nextId, hlast⟩, by rw [toNat_nextId_succ hlast]; exact Nat.lt_succ_self _⟩
    have stored := given.setRecord issued { c.record c.nextId with status := .registering }
    rw [Controller.startRegistration_next hlast]
    exact Controller.Registering.settleOrSend_inv
      { stored with
        attempts := Nat.zero_le _
        pendingBits := pending
        going := Nat.zero_le _
        sel := asserted
        slot := slot.symm ▸ hk
        id := issued } hquiet

/-- `start_command()` of 43_controller_commands.md rule R292: the rule of the opcode of the command word. -/
def Controller.startCommand (c : Controller) (w : Word) : Controller :=
  if opcOf w = 0x01 then c.cmdMetrics (targetOf w)
  else if opcOf w = 0x02 then c.cmdConfigure (targetOf w) (lenOf w)
  else if opcOf w = 0x03 then c.cmdConfigOptions (targetOf w)
  else if opcOf w = 0x04 then c.cmdRestart (targetOf w)
  else if opcOf w = 0x05 then c.cmdProbe (targetOf w)
  else if opcOf w = 0x06 then c.cmdResetRegistry
  else c.badCommand

/-- Every command word runs its rule at the Controller. -/
theorem exec_decodeCommand (w : Word) (s : State) :
    exec (decodeCommand w) s = .next { s with ctrl := s.ctrl.startCommand w } := by
  unfold decodeCommand Controller.startCommand
  by_cases literal : opcOf w = 0x00 ∨ opcOf w = 0x01 ∨ opcOf w = 0x02 ∨ opcOf w = 0x03 ∨ opcOf w = 0x04 ∨
      opcOf w = 0x05 ∨ opcOf w = 0x06
  · rcases literal with h | h | h | h | h | h | h <;> (rw [h]; rfl)
  · simp only [not_or] at literal
    obtain ⟨h0, h1, h2, h3, h4, h5, h6⟩ := literal
    simp only [h0, h1, h2, h3, h4, h5, h6, if_false]
    split_ifs <;> rfl

/-- An exchange with an ID that was given out, or the RESTART of all. -/
theorem Controller.Inv.startExchange {c : Controller} (h : c.Inv) (hst : c.cst = .idle) (hopc : c.curOpc ≠ 0x05)
    {t : Byte} (ht : (c.curOpc = 0x04 ∧ t = 0xFF) ∨ c.Issued t) (frame : List Byte) (exp : Byte) :
    (c.startExchange t frame exp).Inv := by
  obtain ⟨sound, hsel, -, htimer⟩ := (Controller.inv_iff hst).1 h
  exact (Controller.inv_iff rfl).2 ⟨{ sound with
    attempts := Nat.zero_le _
    going := Nat.zero_le _
    sel := hsel.trans (if_neg hopc).symm
    slot := fun e => absurd e hopc
    target := fun _ => ht }, rfl, htimer⟩

/-- A record that is not ABSENT is of an ID that was given out. -/
theorem Controller.Inv.issued {c : Controller} (h : c.Inv) {t : Byte} (hrec : (c.record t).status ≠ .absent) :
    c.Issued t := by
  refine ⟨⟨?_, ?_⟩, Nat.lt_of_not_le fun hle => hrec (h.freeAbsent t hle)⟩
  · rintro rfl
    exact hrec h.masterAbsent
  · rintro rfl
    exact hrec h.broadcastAbsent

/-- A command that ends before anything is sent. -/
theorem Controller.Inv.complete {c : Controller} (h : c.Inv) (hst : c.cst = .idle) (r : ResultCode) (info : Byte)
    (data : List Byte) : (c.complete r info data).Inv := by
  obtain ⟨sound, hsel, hbusy, -⟩ := (Controller.inv_iff hst).1 h
  exact sound.complete_inv hsel hbusy _ _ _

theorem Controller.checkTarget_none {c : Controller} {t : Byte} (h : c.checkTarget t = none) :
    (c.record t).status ≠ .absent := by
  unfold Controller.checkTarget at h
  split at h
  · cases h
  split at h
  · cases h
  · assumption

theorem Controller.Inv.request {c : Controller} (h : c.Inv) (hst : c.cst = .idle) (hopc : c.curOpc ≠ 0x05) (t : Byte)
    (payload : Payload) (exp : PacketType) : (c.request t payload exp).Inv := by
  unfold Controller.request
  split
  · exact h.complete hst _ _ _
  next hcheck =>
    split
    · exact h.complete hst _ _ _
    · exact h.startExchange hst hopc (.inr (h.issued (Controller.checkTarget_none hcheck))) _ _

theorem Controller.Inv.cmdRestart {c : Controller} (h : c.Inv) (hst : c.cst = .idle) (hopc : c.curOpc = 0x04)
    (t : Byte) : (c.cmdRestart t).Inv := by
  have hne : c.curOpc ≠ 0x05 := by rw [hopc]; decide
  unfold Controller.cmdRestart
  split
  · exact h.complete hst _ _ _
  split
  · exact h.complete hst _ _ _
  next hcheck =>
    refine h.startExchange hst hne ?_ _ _
    by_cases hall : t = 0xFF
    · exact .inl ⟨hopc, hall⟩
    · exact .inr (h.issued fun habsent => hcheck ⟨hall, habsent⟩)

theorem Controller.Inv.cmdProbe {c : Controller} (h : c.Inv) (hst : c.cst = .idle) (hopc : c.curOpc = 0x05)
    (k : Byte) : (c.cmdProbe k).Inv := by
  obtain ⟨sound, hsel, hbusy, htimer⟩ := (Controller.inv_iff hst).1 h
  obtain ⟨-, -, hslots, -⟩ := h.params
  unfold Controller.cmdProbe
  split
  · exact h.complete hst _ _ _
  next hk =>
  have slot : (k.setWidth 5).toNat = k.toNat := by
    rw [BitVec.toNat_setWidth]
    exact Nat.mod_eq_of_lt (by omega)
  have asserted : setBit c.selOut k.toNat true = if c.curOpc = 0x05 then 1#32 <<< (k.setWidth 5).toNat else 0 := by
    rw [hsel, setBit_zero_true, if_pos hopc, slot]
  have slotExists : (k.setWidth 5).toNat < c.params.nslots := slot.symm ▸ Nat.lt_of_not_le hk
  have seq : Controller.Commanding { c with
      selOut := setBit c.selOut k.toNat true, curSlot := k.setWidth 5, curId := 0xFF, attempts := 0 } :=
    { sound with
      attempts := Nat.zero_le _
      going := Nat.zero_le _
      sel := asserted
      slot := fun _ => slotExists
      target := fun hne => absurd hopc hne }
  dsimp only
  split
  next => exact (Controller.inv_iff rfl).2 ⟨{ seq with }, rfl, htimer⟩
  next hne =>
    have one_le : 1 ≤ c.params.tSettle.toNat := by bv_omega
    exact (Controller.inv_iff rfl).2 ⟨{ seq with }, hopc, ⟨hbusy, htimer⟩, one_le, Nat.le_refl _⟩

theorem Controller.Inv.cmdResetRegistry {c : Controller} (h : c.Inv) (hst : c.cst = .idle) :
    c.cmdResetRegistry.Inv := by
  obtain ⟨sound, hsel, hbusy, -⟩ := (Controller.inv_iff hst).1 h
  have emptied := sound.mapRegistry (f := fun _ => { status := .absent, last := 0 }) fun _ _ => rfl
  have absent : ∀ i, (Controller.record { c with
      registry := mapRegistry (fun _ => { status := .absent, last := 0 }) c.registry } i).status = .absent :=
    fun i => by simp only [Controller.record, mapRegistry_getElem]
  exact Controller.Sound.complete_inv (c := { c with registry := mapRegistry _ c.registry, nextId := 0x01 })
    { emptied with nextId := (by decide : (0x01 : Byte) ≠ 0), freeAbsent := fun i _ => absent i } hsel hbusy _ _ _

/-- A command that is started from the latch (43_controller_commands.md rule R292). -/
theorem Controller.Inv.startCommand {c : Controller} (h : c.Inv) (hst : c.cst = .idle) {w : Word} (hw : c.curCmd = w) :
    (c.startCommand w).Inv := by
  subst hw
  have ne_probe : ∀ {opc : Byte}, opcOf c.curCmd = opc → opc ≠ 0x05 → c.curOpc ≠ 0x05 := fun e hne h5 =>
    hne (e.symm.trans h5)
  unfold Controller.startCommand
  split
  next e => exact h.request hst (ne_probe e (by decide)) _ _ _
  split
  next e => exact h.request hst (ne_probe e (by decide)) _ _ _
  split
  next e => exact h.request hst (ne_probe e (by decide)) _ _ _
  split
  next e => exact h.cmdRestart hst e _
  split
  next e => exact h.cmdProbe hst e _
  split
  next => exact h.cmdResetRegistry hst
  next => exact h.complete hst _ _ _

end Sys2Proof.Machine
end

section
/-! ## A board keeps its invariant (10_state.md rules R57, R58) -/

namespace Sys2Proof.Machine

/-! ### What is sent -/

/-- A response changes of the board only what its framer sends. -/
theorem Extension.Inv.reply {e : Extension} (h : e.Inv) (p : Payload) : (e.reply p).Inv := by
  unfold Extension.reply
  split <;> exact { h with }

theorem Extension.Inv.replyError {e : Extension} (h : e.Inv) (code : Byte) : (e.replyError code).Inv :=
  { h.reply (.error code) with }

/-! ### The rows of the table (41_extension_fsm.md rule R215) -/

/-- An ID that a well-formed Init carries is assignable. -/
theorem assignable_of_parse_init {body : List Byte} {id : Byte} (h : parse .init body = some (.init id)) :
    assignable id := by
  simp only [parse] at h
  split at h
  · cases h
  next hne =>
    split at h
    · cases h
      exact ⟨fun e => hne (.inl e), fun e => hne (.inr e)⟩
    · cases h

theorem Extension.Inv.register {e : Extension} (h : e.Inv) (body : List Byte) : (e.register body).Inv := by
  unfold Extension.register
  split
  next id hp =>
    refine Extension.Inv.reply ?_ _
    exact { h with
      ready := by simp [Extension.raiseEvents]
      selected := fun hne => absurd rfl hne
      anonymous := fun hne => absurd rfl hne
      named := fun _ => assignable_of_parse_init hp }
  next => exact h

theorem Extension.Inv.reRegister {e : Extension} (h : e.Inv) (hst : e.est = .registered) (body : List Byte) :
    (e.reRegister body).Inv := by
  unfold Extension.reRegister
  split
  next id hp =>
    refine Extension.Inv.reply ?_ _
    exact { h with
      anonymous := fun hne => absurd hst hne
      named := fun _ => assignable_of_parse_init hp }
  next => exact h

theorem Extension.Inv.answerProbe {e : Extension} (h : e.Inv) (rid : Byte) (body : List Byte) :
    (e.answerProbe rid body).Inv := by
  unfold Extension.answerProbe
  split
  · split
    · exact h.replyError _
    · exact h
  · split <;> exact h.reply _

theorem Extension.Inv.doRestart {e : Extension} (h : e.Inv) (rid : Byte) (body : List Byte) :
    (e.doRestart rid body).Inv := by
  unfold Extension.doRestart
  split
  · split
    · exact h.replyError _
    · exact h
  · have unregistered : (if e.selSync then EState.selected else EState.uninitialized) ≠ .registered := by
      split <;> decide
    exact { h with
      ready := iff_of_true rfl unregistered
      selected := fun _ => by simp [Extension.raiseEvents]
      anonymous := fun _ => rfl
      named := fun hst => absurd hst unregistered }

theorem Extension.Inv.answerMetrics {e : Extension} (h : e.Inv) (body : List Byte) : (e.answerMetrics body).Inv := by
  unfold Extension.answerMetrics
  split
  · exact h.replyError _
  split
  · exact h.replyError _
  · exact h.reply _

theorem Extension.Inv.storeConfig {e : Extension} (h : e.Inv) (body : List Byte) : (e.storeConfig body).Inv := by
  unfold Extension.storeConfig
  split
  · refine Extension.Inv.reply ?_ _
    exact { h with mem := Memory.writeBytes_wf _ _ h.mem }
  · exact h.replyError _

theorem Extension.Inv.answerOptions {e : Extension} (h : e.Inv) (body : List Byte) : (e.answerOptions body).Inv := by
  unfold Extension.answerOptions
  split
  · exact h.replyError _
  split
  · exact h.replyError _
  · exact h.reply _

/-- Only a REGISTERED board takes a retried registration. -/
theorem Extension.registered_of_reRegister {e : Extension} {rid : Byte} {t : PacketType}
    (h : e.route rid t = .reRegister) : e.est = .registered := by
  by_contra hst
  rw [Extension.route_unregistered hst] at h
  split at h
  · cases h
  · split at h <;> cases h

theorem Extension.Inv.frameReceived {e : Extension} (h : e.Inv) (rid : Byte) (t : PacketType) (body : List Byte) :
    (e.frameReceived rid t body).Inv := by
  unfold Extension.frameReceived
  cases hr : e.route rid t with
  | register => exact h.register body
  | reRegister => exact h.reRegister (Extension.registered_of_reRegister hr) body
  | probe => exact h.answerProbe rid body
  | restart => exact h.doRestart rid body
  | metrics => exact h.answerMetrics body
  | configure => exact h.storeConfig body
  | options => exact h.answerOptions body
  | unexpected => exact h.replyError _
  | drop => exact h

theorem Extension.Inv.decodeFailed {e : Extension} (h : e.Inv) (reason : DecodeError) :
    (e.decodeFailed reason).Inv := by
  cases reason with
  | unknownType rid t =>
    rw [Extension.decodeFailed_unknownType]
    split
    · exact h.replyError _
    · exact h
  | lengthMismatch | versionMismatch | checksumMismatch => exact h

/-! ### Ticks, host accesses and reset -/

theorem Extension.Inv.tick {e : Extension} (h : e.Inv) (level : Bool) : (e.tick level).Inv := by
  obtain ⟨hbuf, -⟩ := Framer.gapTick_frame e.framer e.params.tGap
  rw [Extension.tick_eq, Extension.sampleSel_eq level h.selected]
  by_cases hst : e.est = .registered
  · simp only [hst, if_true]
    exact { h with
      ready := h.ready.trans (by rw [hst])
      selected := fun hne => absurd rfl hne
      anonymous := fun hne => absurd rfl hne
      named := fun _ => h.named hst
      rxBuf := hbuf ▸ h.rxBuf }
  · have unregistered : (if level then EState.selected else .uninitialized) ≠ .registered := by split <;> decide
    simp only [hst, if_false]
    exact { h with
      ready := iff_of_true (h.ready.2 hst) unregistered
      selected := fun _ => by cases level <;> simp
      anonymous := fun _ => h.anonymous hst
      named := fun hr => absurd hr unregistered
      rxBuf := hbuf ▸ h.rxBuf }

theorem Extension.Inv.applyWrite {e : Extension} (h : e.Inv) (a : Nat) (v : Word) : (e.applyWrite a v).Inv := by
  unfold Extension.applyWrite
  split
  · exact { h with }
  split
  · exact { h with }
  split
  · exact { h with }
  split
  · exact { h with }
  split
  · exact { h with mem := Memory.writeBytes_wf _ _ h.mem }
  · exact h

/-- The reset values meet the invariant, whatever the buffers hold (70_reset_and_hazards.md rule R402). -/
theorem Extension.reset_inv {p : Params} (hp : p.ok) (sel : Bool) {rx mem : Memory} (hrx : Memory.wf rx)
    (hmem : Memory.wf mem) : (Extension.reset p sel rx mem).Inv := by
  have unregistered : (if sel then EState.selected else EState.uninitialized) ≠ .registered := by
    split <;> decide
  exact {
    params := hp
    ready := iff_of_true rfl unregistered
    selected := fun _ => by simp [Extension.reset]
    anonymous := fun _ => rfl
    named := fun hst => absurd hst unregistered
    mem := hmem
    rxBuf := hrx }

end Sys2Proof.Machine
end

section
/-! ## What a step does to the cores

A step of a core changes that core alone: what the event does to it, `arbitrate()` at the Controller, and the transfer
of its frame to the bus. Everything else that happens changes only the medium and the lines, or inserts or removes a
board. What every step keeps of the cores is proved by cases on this. -/

namespace Sys2Proof.Machine

/-! ### The cores a change leaves alone -/

/-- Every core but the one at `n` is as it was, and no slot came or went. -/
structure State.SameBut (s t : State) (n : Node) : Prop where
  ctrl : n ≠ .controller → t.ctrl = s.ctrl
  board : ∀ k, n ≠ .slot k → t.board k = s.board k
  length : t.slots.length = s.slots.length

/-- Every core is as it was, and no slot came or went. -/
structure State.SameCores (s t : State) : Prop where
  ctrl : t.ctrl = s.ctrl
  board : ∀ k, t.board k = s.board k
  length : t.slots.length = s.slots.length

theorem State.SameCores.but {s t : State} (h : s.SameCores t) (n : Node) : s.SameBut t n :=
  ⟨fun _ => h.ctrl, fun k _ => h.board k, h.length⟩

theorem State.SameCores.trans {s t u : State} (h : s.SameCores t) (h' : t.SameCores u) : s.SameCores u :=
  ⟨h'.ctrl.trans h.ctrl, fun k => (h'.board k).trans (h.board k), h'.length.trans h.length⟩

theorem State.SameBut.trans {s t u : State} {n : Node} (h : s.SameBut t n) (h' : t.SameBut u n) : s.SameBut u n :=
  ⟨fun hn => (h'.ctrl hn).trans (h.ctrl hn), fun k hk => (h'.board k hk).trans (h.board k hk),
    h'.length.trans h.length⟩

theorem State.SameCores.of_fields {s t : State} (hc : t.ctrl = s.ctrl) (hs : t.slots = s.slots) : s.SameCores t :=
  ⟨hc, fun k => by simp only [State.board, hs], congrArg List.length hs⟩

/-- The fields of the medium do not matter. -/
theorem State.SameBut.of_eq {r s t : State} {n : Node} (h : s.SameBut t n) (hc : s.ctrl = r.ctrl)
    (hs : s.slots = r.slots) : r.SameBut t n :=
  ((State.SameCores.of_fields hc hs).but n).trans h

theorem State.SameCores.of_eq {r s t : State} (h : s.SameCores t) (hc : s.ctrl = r.ctrl) (hs : s.slots = r.slots) :
    r.SameCores t :=
  (State.SameCores.of_fields hc hs).trans h

theorem State.sameCores_mapWires (s : State) (f : Node → Params → Wire → Wire) : s.SameCores (s.mapWires f) :=
  ⟨rfl, s.board_mapWires f, mapSlotWires_length _ _ _⟩

theorem State.sameCores_setWire (s : State) (n : Node) (w : Wire) : s.SameCores (s.setWire n w) := by
  refine ⟨?_, s.board_setWire n w, ?_⟩
  · cases n <;> rfl
  · cases n with
    | controller => rfl
    | slot k => exact s.mapSlot_slots_length k _

theorem State.sameCores_takeByte (s : State) (n : Node) (w : Wire) : s.SameCores (s.takeByte n w) := by
  unfold State.takeByte
  split
  · exact s.sameCores_setWire n w
  · exact (s.sameCores_setWire n w).trans (.of_fields rfl rfl)

theorem State.sameCores_giveUp (s : State) (n : Node) : s.SameCores (s.giveUp n) :=
  (s.sameCores_mapWires _).trans (.of_fields rfl rfl)

theorem State.sameCores_sendEnds (s : State) (n : Node) : s.SameCores (s.sendEnds n) :=
  (s.sameCores_mapWires _).trans (.of_fields rfl rfl)

theorem State.sameCores_abandon (s : State) (n : Node) : s.SameCores (s.abandon n) := by
  unfold State.abandon
  split
  · exact s.sameCores_giveUp n
  · exact .of_fields rfl rfl

theorem State.sameCores_driveLines (s before : State) : s.SameCores (s.driveLines before) :=
  ⟨rfl, s.board_driveLines before, driveSlots_length _ _ _ _ _⟩

theorem State.sameCores_lineArrives (s : State) (line : LineName) (k : Nat) : s.SameCores (s.lineArrives line k) := by
  refine ⟨?_, fun j => s.board_lineArrives line k j, ?_⟩
  · cases line <;> rfl
  · cases line <;> exact s.mapSlot_slots_length k _

theorem State.sameBut_mapCtrl (s : State) (f : Controller → Controller) : s.SameBut (s.mapCtrl f) .controller :=
  ⟨fun h => absurd rfl h, fun _ _ => rfl, rfl⟩

theorem State.sameBut_mapSlot (s : State) (k : Nat) (f : Slot → Slot) : s.SameBut (s.mapSlot k f) (.slot k) := by
  refine ⟨fun _ => rfl, fun j hj => ?_, s.mapSlot_slots_length k f⟩
  have hne : k ≠ j := fun e => hj (congrArg Node.slot e)
  rw [State.board, State.mapSlot_slots_getElem?, if_neg hne, State.board]

theorem State.sameBut_mapNode (s : State) (n : Node) (fc : Controller → Controller) (fe : Extension → Extension) :
    s.SameBut (s.mapNode n fc fe) n := by
  cases n with
  | controller => exact s.sameBut_mapCtrl fc
  | slot k => exact s.sameBut_mapSlot k _

/-! ### The transfer of a frame -/

def Controller.handedOver (c : Controller) : Controller := { c with framer := c.framer.handedOver }

def Extension.handedOver (e : Extension) : Extension := { e with framer := e.framer.handedOver }

theorem State.sameCores_hear (s : State) (n : Node) (f : List Byte) : s.SameCores (s.hear n f) :=
  (s.sameCores_mapWires _).trans (.of_fields rfl rfl)

/-- The transfer empties the outbox of the node and changes no other core. -/
theorem State.sameCores_transmit (s : State) (n : Node) :
    State.SameCores (s.mapNode n Controller.handedOver Extension.handedOver) (s.transmit n) := by
  have emptied : s.mapFramer n Framer.handedOver = s.mapNode n Controller.handedOver Extension.handedOver := rfl
  rcases s.transmit_cases n with ⟨f, h⟩ | h <;> rw [h, emptied]
  · exact State.sameCores_hear _ n f
  · exact .of_fields rfl rfl

/-! ### What an event does to a core -/

/-- The core whose framer received a byte (40_framer_crc.md rule R178). -/
def Controller.takeByte (c : Controller) (b : Byte) : Controller := { c with framer := (c.framer.rxByte b).1 }

def Extension.takeByte (e : Extension) (b : Byte) : Extension := { e with framer := (e.framer.rxByte b).1 }

/-- What an event does to the Controller, before its `arbitrate()`. -/
inductive Controller.Reacts (c : Controller) : Event → Controller → Prop where
  | txDone : Reacts c (.txDone .controller) c.txDone
  | txError : Reacts c (.txError .controller) c.txError
  | byte (ev : Event) (b : Byte) : Reacts c ev (c.takeByte b)
  | frame (ev : Event) (b rid : Byte) (t : PacketType) (body : List Byte) :
      Reacts c ev ((c.takeByte b).frameReceived rid t body)
  | badFrame (ev : Event) (b : Byte) (reason : DecodeError) :
      Reacts c ev ((c.takeByte b).decodeFailed reason)
  | read (addr : BitVec 12) : Reacts c (.memRead .controller addr 4) c
  | write (addr : BitVec 12) (v : Word) : Reacts c (.memWrite .controller addr 4 v) (c.applyWrite addr.toNat v)
  | tick (levels : BitVec 32) : Reacts c (.tick .controller) (c.tick levels)
  | reset (levels : BitVec 32) (draw : Nat) : Reacts c (.reset .controller) (resetController c.params levels draw)

/-- What `arbitrate()` does to the Controller (42_controller_registration.md rule R260). -/
inductive Controller.Arbitrates (c : Controller) : Controller → Prop where
  | stays : Arbitrates c c
  | registration (k : Nat) (hst : c.cst = .idle) (hk : c.lowestPending = some k) : Arbitrates c (c.startRegistration k)
  | command (hst : c.cst = .idle) (hk : c.lowestPending = none) (hv : c.cmdValid = true) :
      Arbitrates c (c.takeCommand.startCommand c.cmdLatched)

/-- What an event does to a board. -/
inductive Extension.Reacts (e : Extension) : Extension → Prop where
  | endSend : Reacts e e.endSend
  | byte (b : Byte) : Reacts e (e.takeByte b)
  | frame (b rid : Byte) (t : PacketType) (body : List Byte) :
      Reacts e ((e.takeByte b).frameReceived rid t body)
  | badFrame (b : Byte) (reason : DecodeError) :
      Reacts e ((e.takeByte b).decodeFailed reason)
  | read : Reacts e e
  | write (a : Nat) (v : Word) : Reacts e (e.applyWrite a v)
  | tick (level : Bool) : Reacts e (e.tick level)
  | reset (sel : Bool) (draw : Nat) : Reacts e (resetExtension e.params sel draw)

/-- What an event does to the cores of the bus. -/
inductive State.CoreStep (s : State) (ev : Event) (t : State) : Prop where
  | medium (same : s.SameCores t)
  | controller {c d : Controller} (reacts : s.ctrl.Reacts ev c) (arbitrates : c.Arbitrates d)
      (same : s.SameBut t .controller) (result : t.ctrl = d.handedOver)
  | board {k : Nat} {e e' : Extension} (stands : s.board k = some e) (reacts : e.Reacts e')
      (same : s.SameBut t (.slot k)) (result : t.board k = some e'.handedOver)
  | attach {k : Nat} {p : Params} (sel : Bool) (draw : Nat) (ok : p.ok)
      (same : s.SameBut t (.slot k)) (result : t.board k = some (resetExtension p sel draw).handedOver)
  | detach {k : Nat} (same : s.SameBut t (.slot k)) (result : t.board k = none)

/-! ### The end of a step -/

theorem State.arbitrate_arbitrates {s t : State} (h : s.arbitrate = .next t) :
    s.ctrl.Arbitrates t.ctrl ∧ s.SameBut t .controller := by
  unfold State.arbitrate at h
  split at h
  · cases h
    exact ⟨.stays, (State.SameCores.of_fields rfl rfl).but _⟩
  next hidle =>
  have hst : s.ctrl.cst = .idle := not_not.1 hidle
  split at h
  next k hk =>
    cases h
    exact ⟨.registration k hst hk, s.sameBut_mapCtrl _⟩
  next hk =>
  split at h
  next hv =>
    rw [exec_decodeCommand] at h
    cases h
    exact ⟨.command hst hk hv, ⟨fun hn => absurd rfl hn, fun _ _ => rfl, rfl⟩⟩
  next =>
    cases h
    exact ⟨.stays, (State.SameCores.of_fields rfl rfl).but _⟩

/-- The end of a step at the Controller. -/
theorem endStep_controller_step {before u t : State} (h : endStep before .controller (.next u) = .next t) :
    u.SameBut t .controller ∧ ∃ d, u.ctrl.Arbitrates d ∧ t.ctrl = d.handedOver := by
  obtain ⟨_, v, hu, hv, rfl⟩ := endStep_eq_next h
  cases hu
  obtain ⟨arbitrates, same⟩ := State.arbitrate_arbitrates ((if_pos rfl).symm.trans hv)
  have sent := (v.sameCores_transmit .controller).trans (State.sameCores_driveLines _ before)
  exact ⟨same.trans ((v.sameBut_mapNode .controller _ _).trans (sent.but _)), v.ctrl, arbitrates, sent.ctrl⟩

/-- The end of a step at a slot. -/
theorem endStep_slot_step {before u t : State} {k : Nat} (h : endStep before (.slot k) (.next u) = .next t) :
    u.SameBut t (.slot k) ∧ t.board k = (u.board k).map Extension.handedOver := by
  rw [endStep_slot] at h
  cases h
  have sent := (u.sameCores_transmit (.slot k)).trans (State.sameCores_driveLines _ before)
  exact ⟨(u.sameBut_mapNode (.slot k) _ _).trans (sent.but _), (sent.board k).trans (u.board_mapBoard_same k _)⟩

/-- A step at the node `n` whose event does `fc` to the Controller or `fe` to a board. -/
theorem State.coreStep_of_mapNode {s r before u t : State} {ev : Event} {n : Node} {fc : Controller → Controller}
    {fe : Extension → Extension} (h : endStep before n (.next u) = .next t) (medium : s.SameCores r)
    (becomes : (r.mapNode n fc fe).SameCores u) (hc : n = .controller → s.ctrl.Reacts ev (fc s.ctrl))
    (he : ∀ k e, n = .slot k → s.board k = some e → e.Reacts (fe e)) : s.CoreStep ev t := by
  have same : s.SameBut u n := (medium.but n).trans ((r.sameBut_mapNode n fc fe).trans (becomes.but n))
  cases n with
  | controller =>
    obtain ⟨same', d, arbitrates, result⟩ := endStep_controller_step h
    have event : u.ctrl = fc s.ctrl := becomes.ctrl.trans (congrArg fc medium.ctrl)
    exact .controller (event ▸ hc rfl) arbitrates (same.trans same') result
  | slot k =>
    obtain ⟨same', result⟩ := endStep_slot_step h
    have event : u.board k = (s.board k).map fe := by
      rw [becomes.board k, State.mapNode, State.board_mapBoard_same, medium.board k]
    rw [event, Option.map_map] at result
    cases stands : s.board k with
    | some e => exact .board stands (he k e rfl stands) (same.trans same') (result.trans (by rw [stands]; rfl))
    | none =>
      have all := same.trans same'
      refine .medium ⟨all.ctrl (by simp), fun j => ?_, all.length⟩
      by_cases hj : k = j
      · rw [← hj, result, stands]
        rfl
      · exact all.board j fun e => hj (Node.slot.inj e)

/-! ### The events of a core -/

theorem State.mapNode_mapNode (s : State) (n : Node) (fc gc : Controller → Controller)
    (fe ge : Extension → Extension) :
    (s.mapNode n fc fe).mapNode n gc ge = s.mapNode n (fun c => gc (fc c)) (fun e => ge (fe e)) := by
  cases n with
  | controller => rfl
  | slot k =>
    simp only [State.mapNode, State.mapBoard, State.mapSlot, List.modify_modify_eq, Function.comp_def, Option.map_map]

theorem State.mapNode_id (s : State) (n : Node) : s.mapNode n id id = s := by
  cases n with
  | controller => rfl
  | slot k =>
    have same : s.mapBoard k id = s.mapSlot k id := State.mapSlot_congr fun sl _ => by simp
    simp [State.mapNode, same, State.mapSlot]

theorem exec_framerOp {op : FramerOp} {s t : State} (h : exec op.instr s = .next t) : ∃ f, t = s.framerCall f := by
  cases op <;> (cases h; exact ⟨_, rfl⟩)

/-- A frame runs its packet type's rule, or fails decode. -/
theorem State.deliverFrame_cases {s t : State} {p : Params} {bytes : List Byte} (h : s.deliverFrame p bytes = .next t) :
    (∃ rid ptype body, t = s.frameReceived rid ptype body) ∨ ∃ reason, t = s.decodeFailed reason := by
  unfold State.deliverFrame decodeFrame at h
  cases hd : decodePacket p bytes with
  | ok packet =>
    simp only [hd, exec_packetInstr] at h
    exact .inl ⟨_, _, _, (Host.Outcome.next.inj h).symm⟩
  | error reason =>
    cases reason with
    | unknownType rid t =>
      obtain ⟨t', ht⟩ := exec_unassignedInstr t rid ((bytes.drop 3).take payloadMax) s
      simp only [hd, ht] at h
      exact .inr ⟨_, (Host.Outcome.next.inj h).symm⟩
    | lengthMismatch | versionMismatch | checksumMismatch =>
      simp only [hd] at h
      exact .inr ⟨_, (Host.Outcome.next.inj h).symm⟩

theorem State.mapFramer_rxByte {s : State} {n : Node} {fr : Framer} (h : s.framer n = some fr) (b : Byte) :
    s.mapFramer n (fun _ => (fr.rxByte b).1) = s.mapNode n (fun c => c.takeByte b) (fun e => e.takeByte b) := by
  cases n with
  | controller =>
    cases h
    rfl
  | slot k =>
    obtain ⟨e, he, rfl⟩ := Option.map_eq_some_iff.1 h
    simp only [State.mapFramer, State.mapNode, State.mapBoard_eq_setBoard _ he]
    rfl

/-- What the byte and then the frame do to a core. -/
theorem State.sameCores_mapNode_active (s : State) (n : Node) (fc gc : Controller → Controller)
    (fe ge : Extension → Extension) : (s.mapNode n (fun c => gc (fc c)) (fun e => ge (fe e))).SameCores
      (State.mapNode { s.mapNode n fc fe with active := n } n gc ge) := by
  rw [← State.mapNode_mapNode]
  cases n <;> exact .of_fields rfl rfl

theorem State.coreStep_receive {s r t : State} {n : Node} {b : Byte} (ev : Event) (medium : s.SameCores r)
    (h : r.receive n b = .next t) : s.CoreStep ev t := by
  unfold State.receive at h
  split at h
  next fr p hf _ =>
    simp only [State.mapFramer_rxByte hf] at h
    split at h
    · cases h
      exact .medium medium
    split at h
    · exact State.coreStep_of_mapNode (fc := fun c => c.takeByte b) (fe := fun e => e.takeByte b) h medium
        (.of_fields rfl rfl) (fun _ => .byte ev b) fun _ e _ _ => .byte b
    · obtain ⟨u, _, hu, _, _⟩ := endStep_eq_next h
      rw [hu] at h
      rcases State.deliverFrame_cases hu with ⟨rid, ptype, body, rfl⟩ | ⟨reason, rfl⟩
      · exact State.coreStep_of_mapNode h medium (State.sameCores_mapNode_active r n _ _ _ _)
          (fun _ => .frame ev b rid ptype body) fun _ e _ _ => .frame b rid ptype body
      · exact State.coreStep_of_mapNode h medium (State.sameCores_mapNode_active r n _ _ _ _)
          (fun _ => .badFrame ev b reason) fun _ e _ _ => .badFrame b reason
  next =>
    cases h
    exact .medium medium

theorem State.coreStep_arrives {s t : State} {n : Node} {b : Byte} {w : Wire} (ev : Event)
    (h : s.arrives n b w = .next t) : s.CoreStep ev t :=
  State.coreStep_receive ev (s.sameCores_takeByte n w) h

theorem State.coreStep_txDone {s t : State} {n : Node} (h : s.txDone n = .next t) : s.CoreStep (.txDone n) t := by
  unfold State.txDone at h
  split at h
  · refine State.coreStep_of_mapNode (fc := Controller.txDone) (fe := Extension.endSend) h (s.sameCores_sendEnds n)
      (.of_fields rfl rfl) ?_ fun _ e _ _ => .endSend
    rintro rfl
    exact .txDone
  · cases h
    exact .medium (.of_fields rfl rfl)

theorem State.coreStep_txError {s t : State} {n : Node} (h : s.txError n = .next t) : s.CoreStep (.txError n) t := by
  unfold State.txError at h
  split at h
  · refine State.coreStep_of_mapNode (fc := Controller.txError) (fe := Extension.endSend) h (s.sameCores_giveUp n)
      (.of_fields rfl rfl) ?_ fun _ e _ _ => .endSend
    rintro rfl
    exact .txError
  · cases h
    exact .medium (.of_fields rfl rfl)

/-- A legal access is one of a word. -/
theorem size_of_legalAccess {addr : BitVec 12} {size : Nat} (h : legalAccess addr size = true) : size = 4 :=
  (of_decide_eq_true h).1

theorem State.coreStep_memRead {s t : State} {n : Node} {addr : BitVec 12} {size : Nat}
    (h : s.memRead n addr size = .next t) : s.CoreStep (.memRead n addr size) t := by
  unfold State.memRead at h
  split at h
  · cases h
    exact .medium (.of_fields rfl rfl)
  split at h
  next hlegal =>
    cases size_of_legalAccess hlegal
    refine State.coreStep_of_mapNode (fc := id) (fe := id) h (.of_fields rfl rfl)
      ((s.mapNode_id n).symm ▸ .of_fields rfl rfl) ?_ fun _ e _ _ => .read
    rintro rfl
    exact .read addr
  next =>
    cases h
    exact .medium (.of_fields rfl rfl)

theorem State.coreStep_memWrite {s t : State} {n : Node} {addr : BitVec 12} {size : Nat} {v : Word}
    (h : s.memWrite n addr size v = .next t) : s.CoreStep (.memWrite n addr size v) t := by
  unfold State.memWrite at h
  split at h
  · cases h
    exact .medium (.of_fields rfl rfl)
  split at h
  next hlegal =>
    cases size_of_legalAccess hlegal
    refine State.coreStep_of_mapNode (fc := fun c => c.applyWrite addr.toNat v)
      (fe := fun e => e.applyWrite addr.toNat v) h (.of_fields rfl rfl) (.of_fields rfl rfl) ?_
      fun _ e _ _ => .write addr.toNat v
    rintro rfl
    exact .write addr v
  next =>
    cases h
    exact .medium (.of_fields rfl rfl)

theorem State.coreStep_tick {s t : State} {n : Node} (h : s.tick n = .next t) : s.CoreStep (.tick n) t := by
  cases n with
  | controller =>
    simp only [State.tick] at h
    exact State.coreStep_of_mapNode (fc := fun c => c.tick s.readyLevels) (fe := id) h
      (s.sameCores_setWire .controller _) (.of_fields rfl rfl) (fun _ => .tick s.readyLevels) fun _ _ hn => nomatch hn
  | slot k =>
    simp only [State.tick] at h
    exact State.coreStep_of_mapNode (fc := id) (fe := fun e => e.tick (s.selLevel k)) h
      (s.sameCores_setWire (.slot k) _) (.of_fields rfl rfl) (fun hn => nomatch hn) fun _ e _ _ => .tick (s.selLevel k)

theorem State.coreStep_resetNode {s t : State} {n : Node} (h : s.resetNode n = .next t) : s.CoreStep (.reset n) t := by
  unfold State.resetNode at h
  split at h
  · cases h
    exact .medium (.of_fields rfl rfl)
  · have driven := (s.resetCore n).sameCores_driveLines s
    cases n with
    | controller =>
      exact State.coreStep_of_mapNode (fc := fun c => resetController c.params s.readyLevels s.draws) (fe := id) h
        (s.sameCores_abandon .controller) (driven.of_eq rfl rfl) (fun _ => .reset s.readyLevels s.draws)
        fun _ _ hn => nomatch hn
    | slot k =>
      exact State.coreStep_of_mapNode (fc := id) (fe := fun e => resetExtension e.params (s.selLevel k) s.draws) h
        (s.sameCores_abandon (.slot k)) (driven.of_eq rfl rfl) (fun hn => nomatch hn)
        fun _ e _ _ => .reset (s.selLevel k) s.draws

theorem State.coreStep_attach {s t : State} {k : Nat} {p : Params} (h : s.attach k p = .next t) :
    s.CoreStep (.attach k p) t := by
  unfold State.attach at h
  split at h
  · cases h
    exact .medium (.of_fields rfl rfl)
  next hfree =>
    simp only [not_or, Nat.not_le, not_not] at hfree
    obtain ⟨hk, -, hok⟩ := hfree
    obtain ⟨same, result⟩ := endStep_slot_step h
    have stands : (s.mapSlot k fun sl =>
        { sl with board := some (resetExtension p sl.sel.level s.draws), wire := [] }).board k =
        some (resetExtension p s.slots[k].sel.level s.draws) := by
      rw [State.board, State.mapSlot_slots_getElem?, if_pos rfl, List.getElem?_eq_getElem hk]
      rfl
    exact .attach _ _ hok ((s.sameBut_mapSlot k _).trans (same.of_eq rfl rfl))
      (result.trans (congrArg (Option.map Extension.handedOver) stands))

theorem State.coreStep_detach {s t : State} {k : Nat} (h : s.detach k = .next t) : s.CoreStep (.detach k) t := by
  unfold State.detach at h
  split at h
  · cases h
    exact .medium (.of_fields rfl rfl)
  · cases h
    let removed := (s.abandon (.slot k)).mapSlot k fun sl => { sl with board := none, wire := [] }
    have emptied : removed.board k = none := by
      rw [State.board, State.mapSlot_slots_getElem?, if_pos rfl]
      cases (s.abandon (.slot k)).slots[k]? <;> rfl
    have driven := State.sameCores_driveLines { removed with draws := s.draws + 1 } s
    exact .detach (((s.sameCores_abandon _).but _).trans ((State.sameBut_mapSlot _ k _).trans
      ((driven.but _).of_eq rfl rfl))) ((driven.board k).trans emptied)

/-- What an event does to the cores, whatever event it is. -/
theorem State.coreStep_handle {s t : State} {ev : Event} (h : s.handle ev = .next t) : s.CoreStep ev t := by
  cases ev with
  | txDone n => exact State.coreStep_txDone h
  | txError n => exact State.coreStep_txError h
  | rxByte n b =>
    simp only [State.handle, State.noiseByte] at h
    split at h
    · exact State.coreStep_receive _ (.of_fields rfl rfl) h
    · cases h
      exact .medium (.of_fields rfl rfl)
  | deliver n =>
    simp only [State.handle, State.deliverByte] at h
    split at h
    · cases h
      exact .medium (.of_fields rfl rfl)
    split at h
    · cases h
      exact .medium (.of_fields rfl rfl)
    · exact State.coreStep_arrives _ h
  | corrupt n b =>
    simp only [State.handle, State.corruptByte] at h
    split at h
    · cases h
      exact .medium (.of_fields rfl rfl)
    split at h
    · cases h
      exact .medium (.of_fields rfl rfl)
    · exact State.coreStep_arrives _ h
  | cut n =>
    cases h
    unfold State.cutFrame
    split
    · exact .medium (.of_fields rfl rfl)
    · exact .medium (s.sameCores_setWire n _)
  | noiseEnds n =>
    cases h
    exact .medium (s.sameCores_setWire n _)
  | memRead n addr size => exact State.coreStep_memRead h
  | memWrite n addr size v => exact State.coreStep_memWrite h
  | strobe =>
    cases h
    exact .medium (.of_fields rfl rfl)
  | tick n => exact State.coreStep_tick h
  | lineArrives line k =>
    cases h
    exact .medium (s.sameCores_lineArrives line k)
  | reset n => exact State.coreStep_resetNode h
  | attach k p => exact State.coreStep_attach h
  | detach k => exact State.coreStep_detach h
  | framer n op =>
    obtain ⟨f, rfl⟩ := exec_framerOp h
    exact .medium (.of_fields rfl rfl)

end Sys2Proof.Machine
end

section
/-! ## Every step keeps the invariant of the bus (42_controller_registration.md R275, 44_line_arbiter.md R347, R348) -/

namespace Sys2Proof.Machine

/-! ### One core -/

/-- A received byte is stored or discarded. -/
theorem Framer.rxByte_kept (fr : Framer) (b : Byte) (h : Memory.wf fr.rxBuf) :
    (fr.rxByte b).1.txBusy = fr.txBusy ∧ Memory.wf (fr.rxByte b).1.rxBuf := by
  rcases fr.rxByte_cases b with ⟨-, e⟩ | ⟨-, -, e⟩ | ⟨-, -, e⟩ <;> rw [e]
  · exact ⟨rfl, h⟩
  · exact ⟨rfl, Memory.write_wf _ _ h⟩
  · exact ⟨rfl, Memory.write_wf _ _ h⟩

theorem Controller.Inv.takeByte {c : Controller} (h : c.Inv) (b : Byte) : (c.takeByte b).Inv :=
  have kept := c.framer.rxByte_kept b h.rxBuf
  h.withFramer kept.1 kept.2

theorem Extension.Inv.takeByte {e : Extension} (h : e.Inv) (b : Byte) : (e.takeByte b).Inv :=
  { h with rxBuf := (e.framer.rxByte_kept b h.rxBuf).2 }

theorem unspecifiedRx_wf (d : Nat) : Memory.wf (unspecifiedRx d) := Memory.writeBytes_wf _ _ Memory.nil_wf

theorem resetController_inv {p : Params} (hp : p.ok) (levels : BitVec 32) (d : Nat) :
    (resetController p levels d).Inv :=
  Controller.reset_inv hp levels _ (unspecifiedRx_wf d) (Memory.writeBytes_wf _ _ Memory.nil_wf)

theorem resetExtension_inv {p : Params} (hp : p.ok) (sel : Bool) (d : Nat) : (resetExtension p sel d).Inv :=
  Extension.reset_inv hp sel (unspecifiedRx_wf d) (Memory.writeBytes_wf _ _ Memory.nil_wf)

/-- Every event of the Controller keeps its invariant. -/
theorem Controller.Reacts.inv {c d : Controller} {ev : Event} (h : c.Reacts ev d) (hc : c.Inv) : d.Inv := by
  cases h with
  | txDone => exact hc.txDone
  | txError => exact hc.txError
  | byte _ b => exact hc.takeByte b
  | frame _ b rid t body => exact (hc.takeByte b).frameReceived rid t body
  | badFrame _ b reason => exact (hc.takeByte b).decodeFailed reason
  | read => exact hc
  | write addr v => exact hc.applyWrite addr.toNat v
  | tick levels => exact hc.tick levels
  | reset levels draw => exact resetController_inv hc.params levels draw

/-- So does `arbitrate()`. -/
theorem Controller.Arbitrates.inv {c d : Controller} (h : c.Arbitrates d) (hc : c.Inv) : d.Inv := by
  cases h with
  | stays => exact hc
  | registration k hst hk => exact hc.startRegistration hst (Controller.lowestPending_lt hk)
  | command hst hk hv =>
    obtain ⟨sound, hsel, hquiet⟩ := (Controller.inv_iff hst).1 hc
    have taken : c.takeCommand.Inv := (Controller.inv_iff (c := c.takeCommand) hst).2 ⟨{ sound with }, hsel, hquiet⟩
    exact taken.startCommand hst rfl

/-- Every event of a board keeps its invariant. -/
theorem Extension.Reacts.inv {e e' : Extension} (h : e.Reacts e') (he : e.Inv) : e'.Inv := by
  cases h with
  | endSend => exact { he with }
  | byte b => exact he.takeByte b
  | frame b rid t body => exact (he.takeByte b).frameReceived rid t body
  | badFrame b reason => exact (he.takeByte b).decodeFailed reason
  | read => exact he
  | write a v => exact he.applyWrite a v
  | tick level => exact he.tick level
  | reset sel draw => exact resetExtension_inv he.params sel draw

/-! ### The bus -/

/-- A board between two steps: its invariant holds, and the bus has taken over what it sent. -/
abbrev Extension.Settled (e : Extension) : Prop := e.Inv ∧ e.framer.outbox = none

theorem Extension.Inv.handedOver {e : Extension} (h : e.Inv) : e.handedOver.Settled := ⟨{ h with }, rfl⟩

theorem State.Inv.settled {s : State} (h : s.Inv) {k : Nat} {e : Extension} (he : s.board k = some e) : e.Settled :=
  ⟨h.boards k e he, h.boardsSent k e he⟩

theorem State.Inv.sameCores {s t : State} (h : s.Inv) (same : s.SameCores t) : t.Inv where
  ctrl := same.ctrl ▸ h.ctrl
  boards k e he := h.boards k e ((same.board k).symm.trans he)
  slots := by rw [same.length, same.ctrl, h.slots]
  ctrlSent := same.ctrl ▸ h.ctrlSent
  boardsSent k e he := h.boardsSent k e ((same.board k).symm.trans he)

/-- A step of a board, or its insertion or removal. -/
theorem State.Inv.sameBut_slot {s t : State} {k : Nat} (h : s.Inv) (same : s.SameBut t (.slot k))
    (hk : ∀ e, t.board k = some e → e.Settled) : t.Inv := by
  have ctrl : t.ctrl = s.ctrl := same.ctrl (by simp)
  have settled : ∀ j e, t.board j = some e → e.Settled := fun j e he => by
    by_cases hj : k = j
    · exact hk e (hj ▸ he)
    · exact h.settled ((same.board j fun e => hj (Node.slot.inj e)).symm.trans he)
  exact {
    ctrl := ctrl ▸ h.ctrl
    boards := fun j e he => (settled j e he).1
    slots := by rw [same.length, ctrl, h.slots]
    ctrlSent := ctrl ▸ h.ctrlSent
    boardsSent := fun j e he => (settled j e he).2 }

/-- A step of the Controller. -/
theorem State.Inv.sameBut_controller {s t : State} {d : Controller} (h : s.Inv) (same : s.SameBut t .controller)
    (result : t.ctrl = d.handedOver) (hd : d.Inv) (hparams : t.ctrl.params = s.ctrl.params) : t.Inv where
  ctrl := by
    rw [result]
    exact { hd with }
  boards k e he := h.boards k e ((same.board k (by simp)).symm.trans he)
  slots := by rw [same.length, hparams, h.slots]
  ctrlSent := by rw [result]; rfl
  boardsSent k e he := h.boardsSent k e ((same.board k (by simp)).symm.trans he)

theorem State.Inv.handle {s t : State} {ev : Event} (h : s.Inv) (hstep : s.handle ev = .next t) : t.Inv := by
  cases State.coreStep_handle hstep with
  | medium same => exact h.sameCores same
  | controller reacts arbitrates same result =>
    exact h.sameBut_controller same result (arbitrates.inv (reacts.inv h.ctrl))
      (State.keepsParams_handle hstep .controller _ _ rfl rfl)
  | board stands reacts same result =>
    refine h.sameBut_slot same fun e he => ?_
    cases result.symm.trans he
    exact (reacts.inv (h.boards _ _ stands)).handedOver
  | attach sel draw ok same result =>
    refine h.sameBut_slot same fun e he => ?_
    cases result.symm.trans he
    exact (resetExtension_inv ok sel draw).handedOver
  | detach same result =>
    refine h.sameBut_slot same fun e he => ?_
    cases result.symm.trans he

theorem State.sameCores_nextEvent (s : State) : s.SameCores s.nextEvent.2 :=
  .of_fields s.nextEvent_cores.1 s.nextEvent_cores.2

/-- Settles O56: taking an event changes no core, and handling it keeps the invariant by what the event, `arbitrate()`
and the transfer do to one core (`coreStep_handle`). -/
theorem stepKeepsInv : Obligations.StepKeepsInv := by
  intro s t h hstep
  have taken := h.sameCores s.sameCores_nextEvent
  unfold step State.stepEvent at hstep
  split at hstep
  next s1 hev =>
    cases hstep
    rwa [hev] at taken
  next ev s1 hev =>
    rw [hev] at taken
    exact taken.handle hstep

end Sys2Proof.Machine
end

section
/-! ## Registration (42_controller_registration.md rules R260..R272) and the frames the Controller ignores -/

namespace Sys2Proof.Machine

/-! ### Frames at the Controller, state by state -/

section
variable {c : Controller} {rid : Byte} {t : PacketType} {body : List Byte}

/-- Outside the two states that wait for a response every frame is discarded (rules R269, R328). -/
theorem Controller.frameReceived_not_waiting (hreg : c.cst ≠ .regWait) (hcmd : c.cst ≠ .cmdWait) :
    c.frameReceived rid t body = c := by
  unfold Controller.frameReceived
  split
  · rfl
  · cases hst : c.cst with
    | regWait => exact absurd hst hreg
    | cmdWait => exact absurd hst hcmd
    | idle | regSettle | regTx | cmdSettle | cmdTx => rfl

theorem Controller.frameReceived_regWait (hst : c.cst = .regWait) : c.frameReceived rid t body =
    if rid = masterId ∧ t = .acknowledge ∧ parse t body ≠ none then c.registrationDone else c := by
  unfold Controller.frameReceived
  rw [hst]
  by_cases hr : rid = masterId
  · rw [if_neg (not_not.2 hr)]
    simp only [hr, true_and]
  · rw [if_pos hr, if_neg fun h => hr h.1]

/-- In CMD_WAIT a malformed frame is discarded, and one that is neither awaited nor an Error (43_controller_commands.md
rules R295, R296). -/
theorem Controller.frameReceived_cmdWait_discarded (hst : c.cst = .cmdWait)
    (h : parse t body = none ∨ (t.code ≠ c.expType ∧ t ≠ .error)) : c.frameReceived rid t body = c := by
  unfold Controller.frameReceived
  rw [hst]
  split
  · rfl
  dsimp only
  split
  · rfl
  next f hp =>
    obtain ⟨hexp, herr⟩ := h.resolve_left (by simp [hp])
    rw [if_neg hexp]
    split
    next code => exact absurd (parse_ptype hp).symm herr
    · rfl

end

theorem Controller.decodeFailed_discarded {c : Controller} {reason : DecodeError}
    (h : ¬(c.cst = .cmdWait ∧ ∃ crc, reason = .checksumMismatch crc)) : c.decodeFailed reason = c := by
  cases reason with
  | checksumMismatch crc => exact if_neg fun hst => h ⟨hst, crc, rfl⟩
  | lengthMismatch | versionMismatch | unknownType => rfl

/-- What changes nothing at the Controller changes nothing. -/
theorem exec_packetInstr_ignored {s : State} (ha : s.active = .controller) {t : PacketType} {rid : Byte}
    {body : List Byte} (h : s.ctrl.frameReceived rid t body = s.ctrl) : exec (packetInstr t rid body) s = .next s := by
  rw [exec_packetInstr, State.frameReceived_controller ha, h]

theorem State.decodeFailed_ignored {s : State} (ha : s.active = .controller) {reason : DecodeError}
    (h : ¬(s.ctrl.cst = .cmdWait ∧ ∃ crc, reason = .checksumMismatch crc)) : s.decodeFailed reason = s := by
  rw [State.decodeFailed_controller ha, Controller.decodeFailed_discarded h]

/-- Settles O32: state by state, the Controller's rule for the frame or the failed decode leaves it. -/
theorem controllerDiscards : Obligations.ControllerDiscards := by
  intro s rid body ha
  refine ⟨fun t hreg hcmd => ?_, fun t hst ht => ?_, fun t hst ht => ?_, fun t _ => ?_, fun reason h => ?_⟩
  · exact exec_packetInstr_ignored ha (Controller.frameReceived_not_waiting hreg hcmd)
  · refine exec_packetInstr_ignored ha ?_
    rw [Controller.frameReceived_regWait hst, if_neg fun h => ht h.2]
  · exact exec_packetInstr_ignored ha (Controller.frameReceived_cmdWait_discarded hst ht)
  · obtain ⟨t', ht⟩ := exec_unassignedInstr t rid body s
    rw [ht, State.decodeFailed_ignored ha (by simp)]
  · exact State.decodeFailed_ignored ha h

/-! ### The end of a registration -/

/-- Settles O33: the body of zeros is a well-formed Acknowledge, and `registrationDone` writes one record. -/
theorem acknowledgeRegisters : Obligations.AcknowledgeRegisters := by
  rintro s c ha rfl hst
  have wellFormed : parse .acknowledge (List.replicate 252 0x00) ≠ none := parse_empty (by simp)
  have done : s.ctrl.frameReceived 0x00 .acknowledge (List.replicate 252 0x00) = s.ctrl.registrationDone := by
    rw [Controller.frameReceived_regWait hst, if_pos ⟨rfl, rfl, wellFormed⟩]
  refine ⟨s.ctrl.registrationDone, ?_, fun i => ?_, rfl⟩
  · rw [show Instr.acknowledge 0x00 (List.replicate 252 0x00) = packetInstr .acknowledge 0x00 (List.replicate 252 0x00)
      from rfl, exec_packetInstr, State.frameReceived_controller ha, done]
  · exact Controller.record_setRecord s.ctrl.disarm s.ctrl.curId i _

/-! ### Arbitration -/

/-- The lowest pending slot is the one below which none is pending (rule R261). -/
theorem Controller.lowestPending_eq_some {c : Controller} {k : Nat} (hk : k < c.params.nslots)
    (hpend : c.pending.getLsbD k = true) (hlow : ∀ j, j < k → c.pending.getLsbD j = false) :
    c.lowestPending = some k :=
  List.find?_range_eq_some.2 ⟨hpend, List.mem_range.2 hk, fun j hj => by simp [hlow j hj]⟩

theorem Controller.lowestPending_eq_none {c : Controller}
    (h : ∀ k, k < c.params.nslots → c.pending.getLsbD k = false) : c.lowestPending = none :=
  List.find?_eq_none.2 fun k hk => by simp [h k (List.mem_range.1 hk)]

/-- Settles O44: the branches of `arbitrate()`, by what the lowest pending slot is. -/
theorem arbitration : Obligations.Arbitration := by
  intro s
  refine ⟨fun hst => if_pos hst, fun k hst hk hpend hlow => ?_, fun hst hnone => ⟨fun hv => ?_, fun hv => ?_⟩⟩
  · simp only [State.arbitrate, hst, ne_eq, not_true_eq_false, if_false,
      Controller.lowestPending_eq_some hk hpend hlow]
    rfl
  · simp only [State.arbitrate, hst, ne_eq, not_true_eq_false, if_false, Controller.lowestPending_eq_none hnone, hv,
      Bool.false_eq_true]
  · exact State.arbitrate_command hst (Controller.lowestPending_eq_none hnone) hv

/-! ### The start of a registration -/

/-- `settle_or_send()` written out (rule R265). -/
theorem Controller.settleOrSend_eq (c : Controller) : c.settleOrSend = { c with
    settleCount := if c.params.tSettle = 0 then c.settleCount else c.params.tSettle
    framer := if c.params.tSettle = 0 then c.framer.send c.txFrame else c.framer
    cst := if c.params.tSettle = 0 then .regTx else .regSettle } := by
  unfold Controller.settleOrSend
  split <;> rfl

/-- The Init frame (rule R264). -/
theorem packetFrame_init (p : Params) (id : Byte) :
    packetFrame p broadcastId (.init id) = frameBytes p 0xFF 0x03 (id :: List.replicate 251 0x00) := rfl

/-- Settles O45: the three ways a registration starts (`startRegistration_exhausted`, `startRegistration_next`,
`settleOrSend_eq`). -/
theorem registrationStarts : Obligations.RegistrationStarts := by
  rintro c c1 k hk hslots rfl
  have slot : (BitVec.ofNat 5 k).toNat = k := toNat_slot (Nat.lt_of_lt_of_le hk hslots)
  have slotByte : (BitVec.ofNat 5 k).setWidth 8 = BitVec.ofNat 8 k :=
    BitVec.eq_of_toNat_eq (by rw [BitVec.toNat_setWidth, slot, BitVec.toNat_ofNat])
  refine ⟨fun hlast => ?_, fun hnext f hf => ?_⟩
  · rw [Controller.startRegistration_exhausted hlast, slot, slotByte]
  · subst hf
    rw [Controller.startRegistration_next hnext, Controller.settleOrSend_eq, ← packetFrame_init]
    exact ⟨fun i => Controller.record_setStatus c c.nextId i .registering, rfl⟩

/-! ### A failed attempt of a registration -/

/-- Settles O46: what counts as a failed attempt, and the two branches of `regAttemptFailed`. -/
theorem registrationAttemptFails : Obligations.RegistrationAttemptFails := by
  intro c hgoing
  have counted := Controller.attempts_succ hgoing
  refine ⟨Controller.timeout_regWait, Controller.txError_regTx, fun hlt => ?_, fun heq => ?_⟩
  · rw [Controller.regAttemptFailed_eq, if_pos (by omega)]
    rfl
  · rw [Controller.regAttemptFailed_eq, if_neg (by omega)]
    exact ⟨fun i => Controller.record_setStatus c c.curId i .unresponsive, rfl⟩

end Sys2Proof.Machine
end

section
/-! ## IDs are given out once (42_controller_registration.md rules R263, R275 (c))

Only the start of a registration, RESET_REGISTRY and a reset write `next_id`, and only the host and `arbitrate()` write
the command latch. -/

namespace Sys2Proof.Machine

/-! ### What the sequences leave unchanged -/

/-- `next_id` and the command latch. -/
def Controller.idSupply (c : Controller) : Byte × Bool × Word := (c.nextId, c.cmdValid, c.cmdLatched)

@[simp] theorem Controller.regAttemptFailed_idSupply (c : Controller) : c.regAttemptFailed.idSupply = c.idSupply := by
  rw [Controller.regAttemptFailed_eq]
  split <;> rfl

@[simp] theorem Controller.request_idSupply (c : Controller) (t : Byte) (p : Payload) (exp : PacketType) :
    (c.request t p exp).idSupply = c.idSupply := by
  unfold Controller.request
  split
  · rfl
  · split <;> rfl

@[simp] theorem Controller.cmdRestart_idSupply (c : Controller) (t : Byte) :
    (c.cmdRestart t).idSupply = c.idSupply := by
  unfold Controller.cmdRestart
  split
  · rfl
  · split <;> rfl

@[simp] theorem Controller.cmdProbe_idSupply (c : Controller) (k : Byte) : (c.cmdProbe k).idSupply = c.idSupply := by
  unfold Controller.cmdProbe
  split
  · rfl
  · dsimp only
    split <;> rfl

@[simp] theorem Controller.restartSent_idSupply (c : Controller) : c.restartSent.idSupply = c.idSupply := by
  unfold Controller.restartSent
  dsimp only
  split <;> rfl

@[simp] theorem Controller.success_idSupply (c : Controller) (f : Payload) : (c.success f).idSupply = c.idSupply := by
  unfold Controller.success
  split
  · dsimp only
    split
    · split <;> rfl
    · rfl
  · split <;> rfl

@[simp] theorem Controller.rejected_idSupply (c : Controller) (code : Byte) :
    (c.rejected code).idSupply = c.idSupply := by
  unfold Controller.rejected
  dsimp only
  split <;> rfl

@[simp] theorem Controller.cmdAttemptFailed_idSupply (c : Controller) : c.cmdAttemptFailed.idSupply = c.idSupply := by
  unfold Controller.cmdAttemptFailed
  dsimp only
  split
  · rfl
  split
  · rfl
  · split <;> rfl

@[simp] theorem Controller.frameReceived_idSupply (c : Controller) (rid : Byte) (t : PacketType) (body : List Byte) :
    (c.frameReceived rid t body).idSupply = c.idSupply := by
  unfold Controller.frameReceived
  split
  · rfl
  cases c.cst with
  | regWait =>
    dsimp only
    split <;> rfl
  | cmdWait =>
    dsimp only
    split
    · rfl
    split
    · exact c.success_idSupply _
    · split
      · exact c.rejected_idSupply _
      · rfl
  | idle | regSettle | regTx | cmdSettle | cmdTx => rfl

@[simp] theorem Controller.decodeFailed_idSupply (c : Controller) (reason : DecodeError) :
    (c.decodeFailed reason).idSupply = c.idSupply := by
  cases reason with
  | checksumMismatch crc =>
    unfold Controller.decodeFailed
    dsimp only
    split
    · exact c.disarm.cmdAttemptFailed_idSupply
    · rfl
  | lengthMismatch | versionMismatch | unknownType => rfl

@[simp] theorem Controller.txDone_idSupply (c : Controller) : c.txDone.idSupply = c.idSupply := by
  unfold Controller.txDone
  split
  case h_2 =>
    split
    · exact Controller.restartSent_idSupply _
    · rfl
  all_goals rfl

@[simp] theorem Controller.txError_idSupply (c : Controller) : c.txError.idSupply = c.idSupply := by
  unfold Controller.txError
  split
  case h_1 => exact Controller.regAttemptFailed_idSupply _
  case h_2 => exact Controller.cmdAttemptFailed_idSupply _
  all_goals rfl

@[simp] theorem Controller.timeout_idSupply (c : Controller) : c.timeout.idSupply = c.idSupply := by
  unfold Controller.timeout
  split
  case h_1 => exact c.regAttemptFailed_idSupply
  case h_2 => exact c.cmdAttemptFailed_idSupply
  all_goals rfl

@[simp] theorem Controller.tickSettle_idSupply (c : Controller) : c.tickSettle.idSupply = c.idSupply := by
  unfold Controller.tickSettle
  split
  case h_1 => dsimp only; split <;> rfl
  case h_2 => dsimp only; split <;> rfl
  all_goals rfl

@[simp] theorem Controller.tickTimer_idSupply (c : Controller) : c.tickTimer.idSupply = c.idSupply := by
  unfold Controller.tickTimer
  split
  · dsimp only
    split
    · exact Controller.timeout_idSupply _
    · rfl
  · rfl

theorem Controller.tick_idSupply (c : Controller) (levels : BitVec 32) : (c.tick levels).idSupply = c.idSupply := by
  rw [Controller.tick, Controller.tickTimer_idSupply, Controller.tickSettle_idSupply, Controller.tickGap_eq]
  rfl

/-! ### What writes them -/

/-- A write to CMD may latch its word; no other write touches the latch (43_controller_commands.md rule R290). -/
theorem Controller.applyWrite_idSupply (c : Controller) (a : Nat) (v : Word) :
    (c.applyWrite a v).idSupply = c.idSupply ∨ a = 0x008 ∧ (c.applyWrite a v).idSupply = (c.nextId, true, v) := by
  unfold Controller.applyWrite
  split
  next ha =>
    unfold Controller.issueCommand
    split
    · exact .inl rfl
    · exact .inr ⟨ha, rfl⟩
  split
  · exact .inl rfl
  split
  · exact .inl rfl
  · split <;> exact .inl rfl

/-- No event of the Controller but its reset writes `next_id`, and only the host's write to CMD the latch. -/
theorem Controller.Reacts.idSupply {c d : Controller} {ev : Event} (h : c.Reacts ev d)
    (hev : ev ≠ .reset .controller) :
    d.idSupply = c.idSupply ∨ ∃ w, ev = .memWrite .controller 0x008 4 w ∧ d.idSupply = (c.nextId, true, w) := by
  cases h with
  | txDone => exact .inl c.txDone_idSupply
  | txError => exact .inl c.txError_idSupply
  | byte _ b => exact .inl rfl
  | frame _ b rid t body => exact .inl ((c.takeByte b).frameReceived_idSupply rid t body)
  | badFrame _ b reason => exact .inl ((c.takeByte b).decodeFailed_idSupply reason)
  | read => exact .inl rfl
  | write addr v =>
    refine (c.applyWrite_idSupply addr.toNat v).imp_right fun ⟨haddr, latched⟩ => ⟨v, ?_, latched⟩
    exact congrArg (Event.memWrite .controller · 4 v) (BitVec.eq_of_toNat_eq haddr)
  | tick levels => exact .inl (c.tick_idSupply levels)
  | reset => exact absurd rfl hev

/-- Every command but RESET_REGISTRY leaves `next_id` (43_controller_commands.md rule R320). -/
theorem Controller.startCommand_nextId {c : Controller} {w : Word} (h : opcOf w ≠ 0x06) :
    (c.startCommand w).nextId = c.nextId := by
  refine congrArg Prod.fst (?_ : (c.startCommand w).idSupply = c.idSupply)
  unfold Controller.startCommand
  rw [if_neg h]
  split
  · exact c.request_idSupply _ _ _
  split
  · exact c.request_idSupply _ _ _
  split
  · exact c.request_idSupply _ _ _
  split
  · exact c.cmdRestart_idSupply _
  split
  · exact c.cmdProbe_idSupply _
  · rfl

/-- A registration takes the next ID, or none when the last one was given out. -/
theorem Controller.startRegistration_nextId (c : Controller) (k : Nat) :
    c.nextId.toNat ≤ (c.startRegistration k).nextId.toNat := by
  by_cases hlast : c.nextId = 0xFF
  · rw [Controller.startRegistration_exhausted hlast]
  · rw [Controller.startRegistration_next hlast, Controller.settleOrSend_eq]
    exact Nat.le_of_lt (Nat.lt_of_lt_of_eq (Nat.lt_succ_self _) (toNat_nextId_succ hlast).symm)

/-- `arbitrate()` does not lower `next_id` unless a RESET_REGISTRY is latched. -/
theorem Controller.Arbitrates.nextId_le {c d : Controller} (h : c.Arbitrates d)
    (hlatch : c.cmdValid = true → opcOf c.cmdLatched ≠ 0x06) : c.nextId.toNat ≤ d.nextId.toNat := by
  cases h with
  | stays => exact Nat.le_refl _
  | registration k => exact c.startRegistration_nextId k
  | command _ _ hv =>
    have kept : (c.takeCommand.startCommand c.cmdLatched).nextId = c.nextId :=
      Controller.startCommand_nextId (c := c.takeCommand) (hlatch hv)
    rw [kept]

/-- Settles O60: what the event leaves in the latch is no RESET_REGISTRY, so `arbitrate()` does not lower `next_id`. -/
theorem idsNeverReused : Obligations.IdsNeverReused := by
  intro s t ev rest hin hev hlatch hwrite hstep
  rw [step_of_single hin] at hstep
  cases State.coreStep_handle hstep with
  | medium same => rw [same.ctrl]
  | board _ _ same _ => rw [same.ctrl (by simp)]
  | attach _ _ _ same _ => rw [same.ctrl (by simp)]
  | detach same _ => rw [same.ctrl (by simp)]
  | @controller c d reacts arbitrates same result =>
    have kept : c.nextId = s.ctrl.nextId ∧ (c.cmdValid = true → opcOf c.cmdLatched ≠ 0x06) := by
      rcases reacts.idSupply hev with unchanged | ⟨w, hw, latched⟩
      · obtain ⟨hnext, hvalid, hword⟩ : c.nextId = s.ctrl.nextId ∧ c.cmdValid = s.ctrl.cmdValid ∧
            c.cmdLatched = s.ctrl.cmdLatched := by simpa [Controller.idSupply] using unchanged
        exact ⟨hnext, by rw [hvalid, hword]; exact hlatch⟩
      · obtain ⟨hnext, -, hword⟩ : c.nextId = s.ctrl.nextId ∧ c.cmdValid = true ∧ c.cmdLatched = w := by
          simpa [Controller.idSupply] using latched
        exact ⟨hnext, fun _ => by rw [hword]; exact hwrite w hw⟩
    obtain ⟨hnext, hfree⟩ := kept
    rw [result, ← hnext]
    exact arbitrates.nextId_le hfree

end Sys2Proof.Machine
end

section
/-! ## The answers to a command (43_controller_commands.md rules R293, R296, R326) -/

namespace Sys2Proof.Machine

/-! ### The address filter -/

theorem Controller.frameReceived_elsewhere (c : Controller) {rid : Byte} (h : rid ≠ 0x00) (t : PacketType)
    (body : List Byte) : c.frameReceived rid t body = c :=
  if_pos h

/-- Settles O31: the address filter comes before the state's rule. -/
theorem controllerAddressFilter : Obligations.ControllerAddressFilter := fun s t _ body ha hrid =>
  exec_packetInstr_ignored ha (s.ctrl.frameReceived_elsewhere hrid t body)

/-! ### Frames in CMD_WAIT -/

/-- A frame at the Controller runs its rule there and changes nothing else. -/
theorem exec_packetInstr_controller {s : State} (ha : s.active = .controller) {t : PacketType} {rid : Byte}
    {body : List Byte} {d : Controller} (h : s.ctrl.frameReceived rid t body = d) :
    exec (packetInstr t rid body) s = .next { s with ctrl := d } := by
  rw [exec_packetInstr, State.frameReceived_controller ha, h]

section
variable {c : Controller} {t : PacketType} {body : List Byte} {f : Payload}

/-- The awaited response ends the command (rule R296). -/
theorem Controller.frameReceived_awaited (hst : c.cst = .cmdWait) (hexp : c.expType = t.code)
    (hp : parse t body = some f) : c.frameReceived 0x00 t body = c.success f := by
  simp only [Controller.frameReceived, masterId, ne_eq, not_true_eq_false, if_false, hst, hp, hexp, if_true]

/-- So does an Error that is not awaited. -/
theorem Controller.frameReceived_error {code : Byte} (hst : c.cst = .cmdWait) (hexp : c.expType ≠ 0x05)
    (hp : parse .error body = some (.error code)) : c.frameReceived 0x00 .error body = c.rejected code := by
  have notAwaited : PacketType.error.code ≠ c.expType := fun h => hexp h.symm
  simp only [Controller.frameReceived, masterId, ne_eq, not_true_eq_false, if_false, hst, hp, notAwaited]

theorem exec_awaited {s : State} (ha : s.active = .controller) (hst : s.ctrl.cst = .cmdWait)
    (hexp : s.ctrl.expType = t.code) (hp : parse t body = some f) :
    exec (packetInstr t 0x00 body) s = .next { s with ctrl := s.ctrl.success f } :=
  exec_packetInstr_controller ha (Controller.frameReceived_awaited hst hexp hp)

end

/-! ### What the response does, by the command in progress -/

section
variable {c : Controller}

/-- A response to an extension's exchange is noted in its record (rule R324). -/
theorem Controller.success_configure (h : opcOf c.curCmd = 0x02) (f : Payload) :
    c.success f = (c.touch c.curId).finished .ok 0 0 := by
  have notProbe : c.curOpc ≠ 0x05 := by rw [Controller.curOpc, h]; decide
  exact (if_neg notProbe).trans (if_pos h)

/-- The data of a response goes to RXBUF (rules R300, R304). -/
theorem Controller.success_data (h : opcOf c.curCmd = 0x01 ∨ opcOf c.curCmd = 0x03) (f : Payload) :
    c.success f = { (c.touch c.curId).finished .ok (BitVec.ofNat 8 f.blobData.length) 0 with
      mem := Memory.writeBytes c.mem 0x200 f.blobData } := by
  obtain ⟨notProbe, notConfigure⟩ : c.curOpc ≠ 0x05 ∧ c.curOpc ≠ 0x02 := by
    unfold Controller.curOpc
    rcases h with h | h <;> rw [h] <;> decide
  exact (if_neg notProbe).trans (if_neg notConfigure)

/-- The end of a PROBE releases SEL and leaves the Registry (rule R308). -/
theorem Controller.success_probe (h : opcOf c.curCmd = 0x05) (status id : Byte) :
    c.success (.initProbeResponse status id) = if status = 0x01
      then (c.setSel c.curSlot.toNat false).complete .ok 0x01 [id]
      else (c.setSel c.curSlot.toNat false).finished .ok 0 0 :=
  if_pos h

/-- An Error ends the command with its code (rule R296). -/
theorem Controller.rejected_eq (c : Controller) (code : Byte) :
    c.rejected code = { c.finished .rejected 0 code with
      selOut := if opcOf c.curCmd = 0x05 then setBit c.selOut c.curSlot.toNat false else c.selOut } := by
  unfold Controller.rejected Controller.curOpc
  split <;> rfl

end

/-! ### The statements -/

/-- Settles O34: the body of zeros is a well-formed Acknowledge, and a CONFIGURE's success writes one record. -/
theorem acknowledgeCompletesConfigure : Obligations.AcknowledgeCompletesConfigure := by
  rintro s c ha rfl hst hexp hopc
  have wellFormed : parse .acknowledge (List.replicate 252 0x00) = some .acknowledge :=
    parse_zeros (f := .acknowledge) rfl rfl
  have answered := exec_awaited (t := .acknowledge) ha hst hexp wellFormed
  rw [Controller.success_configure hopc] at answered
  exact ⟨_, answered, fun i => Controller.record_touch s.ctrl s.ctrl.curId i, rfl⟩

/-- A response with data is parsed to its data. -/
theorem parse_response {t : PacketType} {make : List Byte → Payload}
    (ht : ∀ body, parse t body = (parseBlob body).map make) {data : List Byte} (h : data.length ≤ 251) :
    parse t (BitVec.ofNat 8 data.length :: data ++ List.replicate (251 - data.length) 0x00) = some (make data) := by
  rw [ht, parseBlob_of_data h, Option.map_some]

/-- Settles O35: both responses carry the data to `success_data`, and the laws of `Memory.writeBytes` give what is
read. -/
theorem responseCompletes : Obligations.ResponseCompletes := by
  rintro s c data body i ha rfl hst hlen rfl hcmd
  have answered : exec i s = .next { s with ctrl :=
      { (s.ctrl.touch s.ctrl.curId).finished .ok (BitVec.ofNat 8 data.length) 0 with
        mem := Memory.writeBytes s.ctrl.mem 0x200 data } } := by
    rcases hcmd with ⟨rfl, hexp, hopc⟩ | ⟨rfl, hexp, hopc⟩
    · have awaited := exec_awaited (t := .metricsResponse) ha hst hexp (parse_response (fun _ => rfl) hlen)
      rwa [Controller.success_data (.inl hopc)] at awaited
    · have awaited := exec_awaited (t := .configureOptionsResponse) ha hst hexp (parse_response (fun _ => rfl) hlen)
      rwa [Controller.success_data (.inr hopc)] at awaited
  exact ⟨_, answered, fun j => Controller.record_touch s.ctrl s.ctrl.curId j,
    fun j hj => Memory.read_writeBytes_inside data s.ctrl.mem 0x200 hj,
    fun a hout => Memory.read_writeBytes_outside data s.ctrl.mem hout,
    fun hwf => Memory.writeBytes_wf 0x200 data hwf, rfl⟩

/-- Settles O36: the two statuses of a response, of which the second writes RXBUF[0]. -/
theorem probeResponseCompletes : Obligations.ProbeResponseCompletes := by
  rintro s c id ha rfl hst hexp hopc
  refine ⟨?_, fun hid => ⟨Memory.write s.ctrl.mem 0x200 id, ?_, Memory.read_write_same _ _ _,
    fun a hne => Memory.read_write_other _ _ hne, fun hwf => Memory.write_wf 0x200 id hwf⟩⟩
  · have awaited := exec_awaited (t := .initProbeResponse) ha hst hexp (parse_initProbeResponse_unregistered id)
    rwa [Controller.success_probe hopc, if_neg (by decide)] at awaited
  · have awaited := exec_awaited (t := .initProbeResponse) ha hst hexp (parse_initProbeResponse_registered hid)
    rwa [Controller.success_probe hopc, if_pos rfl] at awaited

/-- Settles O37: an Error that no command awaits rejects the command (`rejected_eq`). -/
theorem errorRejects : Obligations.ErrorRejects := by
  rintro s c code ha rfl hst hexp
  have rejected := Controller.frameReceived_error hst hexp (parse_error code)
  rw [Controller.rejected_eq] at rejected
  exact exec_packetInstr_controller (t := .error) ha rejected

end Sys2Proof.Machine
end

section
/-! ## The host commands: their start, and how they end without an answer (43_controller_commands.md
rules R290..R322) -/

namespace Sys2Proof.Machine

/-- A command runs its rule at the Controller and changes nothing else. -/
theorem exec_of_rule {i : Instr} {s : State} {rule : Controller → Controller} {d : Controller}
    (hi : exec i s = .next (s.mapCtrl rule)) (hd : rule s.ctrl = d) : exec i s = .next { s with ctrl := d } := by
  rw [hi, ← hd]
  rfl

/-! ### The command register -/

/-- BUSY is bit 0 of STATUS (10_state.md rule R44). -/
theorem Controller.getLsbD_statusWord_zero (c : Controller) : c.statusWord.getLsbD 0 = c.busy := by
  simp only [Controller.statusWord, BitVec.getLsbD_append, BitVec.getLsbD_ofBool]
  simp

/-- Settles O43: the write is the command-issue operation, whose two branches are BUSY's. -/
theorem commandWrite : Obligations.CommandWrite := by
  intro c w
  rw [c.getLsbD_statusWord_zero, show c.applyWrite 0x008 w = c.issueCommand w from rfl, Controller.issueCommand]
  exact ⟨fun hbusy => if_pos hbusy, fun hfree => if_neg (by simp [hfree])⟩

/-! ### Requests -/

/-- The frame of a packet without fields has a body of zeros. -/
theorem eq_packetFrame_of_empty {p : Params} {rid : Byte} {payload : Payload} {frame : List Byte}
    (hs : serialize payload = []) (h : frame = frameBytes p rid payload.ptype.code (List.replicate 252 0x00)) :
    frame = packetFrame p rid payload := by
  rw [h, packetFrame, hs]
  rfl

/-- The Configure frame carries `n` bytes of TXBUF, with their number before them (rule R302). -/
theorem packetFrame_configure (c : Controller) (t n : Byte) :
    packetFrame c.params t (.configure (c.txData n.toNat)) = frameBytes c.params t 0x07
      (n :: bufferBytes c.mem 0x100 n.toNat ++ List.replicate (251 - n.toNat) 0x00) := by
  have payload : serialize (.configure (c.txData n.toNat)) = n :: bufferBytes c.mem 0x100 n.toNat :=
    blob_readBytes c.mem 0x100 n
  have room : payloadMax - (n.toNat + 1) = 251 - n.toNat := by
    rw [payloadMax]
    omega
  rw [packetFrame, payload, padBody, List.length_cons, bufferBytes_length, room]
  rfl

/-- Settles O38: each request's payload fits, so it is sent (`request_sent`). -/
theorem requestsStart : Obligations.RequestsStart := by
  rintro s c t len rsvd rfl ht hreg
  refine ⟨?_, ?_, ?_⟩
  · intro f hf
    obtain rfl : f = packetFrame s.ctrl.params t .metrics := eq_packetFrame_of_empty rfl hf
    exact exec_of_rule rfl (Controller.request_sent ht hreg (Nat.zero_le _))
  · intro f hf
    obtain rfl : f = packetFrame s.ctrl.params t .configureOptions := eq_packetFrame_of_empty rfl hf
    exact exec_of_rule rfl (Controller.request_sent ht hreg (Nat.zero_le _))
  · rintro f hlen rfl
    have fits : (serialize (.configure (s.ctrl.txData len.toNat))).length ≤ 252 := by
      simp only [serialize, blob, List.length_cons, Controller.txData, Memory.readBytes_length]
      omega
    rw [← packetFrame_configure]
    exact exec_of_rule rfl (Controller.request_sent ht hreg fits)

/-! ### RESTART -/

section
variable {c : Controller} {t : Byte}

theorem Controller.cmdRestart_absent (ht : assignable t) (hrec : (c.record t).status = .absent) :
    c.cmdRestart t = c.finished .noSuchExtension 0 0 :=
  (if_neg ht.1).trans (if_pos ⟨ht.2, hrec⟩)

theorem Controller.cmdRestart_sent (h0 : t ≠ 0x00) (h : t = 0xFF ∨ (c.record t).status ≠ .absent) :
    c.cmdRestart t = c.startExchange t (packetFrame c.params t .restart) 0x00 :=
  (if_neg h0).trans (if_neg fun e => h.elim e.1 fun hrec => hrec e.2)

/-- A RESTART that was sent is complete (rule R306). -/
theorem Controller.txDone_restart (hst : c.cst = .cmdTx) (hopc : opcOf c.curCmd = 0x04) :
    c.txDone = Controller.restartSent { c with framer := c.framer.endSend } := by
  unfold Controller.txDone
  rw [hst]
  exact if_pos hopc

theorem Controller.restartSent_eq (c : Controller) :
    c.restartSent = { c.finished .ok 0 0 with registry := c.restartSent.registry } := by
  unfold Controller.restartSent
  dsimp only
  split <;> rfl

/-- The records a RESTART changes: of all extensions, or of its target. -/
theorem Controller.record_restartSent (c : Controller) (i : Byte) :
    c.restartSent.record i =
      if (c.curId = 0xFF ∧ ((c.record i).status = .registered ∨ (c.record i).status = .unresponsive)) ∨
          (c.curId ≠ 0xFF ∧ i = c.curId)
      then { c.record i with status := .unregistered } else c.record i := by
  unfold Controller.restartSent
  by_cases hall : c.curId = 0xFF
  · simp only [hall, if_true, true_and, ne_eq, not_true_eq_false, false_and, or_false]
    exact mapRegistry_getElem _ _ i.isLt
  · simp only [hall, if_false, false_and, false_or, ne_eq, not_false_eq_true, true_and]
    exact c.record_setStatus c.curId i .unregistered

end

/-- Settles O40: the branches of `cmdRestart`, and `restartSent` on the TxDone. -/
theorem restartCommand : Obligations.RestartCommand := by
  refine ⟨?_, fun c hst hopc _ _ => ?_⟩
  · rintro s c t len rsvd rfl
    refine ⟨fun h0 => exec_of_rule rfl (if_pos h0),
      fun ht hrec => exec_of_rule rfl (Controller.cmdRestart_absent ht hrec), ?_⟩
    intro ht f hf
    obtain rfl : f = packetFrame s.ctrl.params t .restart := eq_packetFrame_of_empty rfl hf
    obtain ⟨h0, hsent⟩ : t ≠ 0x00 ∧ (t = 0xFF ∨ (s.ctrl.record t).status ≠ .absent) := by
      rcases ht with rfl | ⟨hassign, hrec⟩
      · exact ⟨by decide, .inl rfl⟩
      · exact ⟨hassign.1, .inr hrec⟩
    exact exec_of_rule rfl (Controller.cmdRestart_sent h0 hsent)
  · rw [Controller.txDone_restart hst hopc]
    exact ⟨Controller.restartSent_eq _, Controller.record_restartSent _⟩

/-! ### PROBE -/

/-- Settles O41: the branches of `cmdProbe`. -/
theorem probeCommand : Obligations.ProbeCommand := by
  rintro s c k len rsvd rfl
  refine ⟨fun hk => exec_of_rule rfl (if_pos hk), ?_⟩
  rintro hk f c1 hf rfl
  obtain rfl : f = packetFrame s.ctrl.params 0xFF .initProbe := eq_packetFrame_of_empty rfl hf
  have slotExists : ¬ s.ctrl.params.nslots ≤ k.toNat := Nat.not_le.2 hk
  exact ⟨fun h0 => exec_of_rule rfl ((if_neg slotExists).trans (if_pos h0)),
    fun hne => exec_of_rule rfl ((if_neg slotExists).trans (if_neg hne))⟩

/-! ### Commands that end at once -/

/-- Settles O42: RESET_REGISTRY maps every record to the empty one, and each reserved opcode runs `badCommand`. -/
theorem commandsWithoutExchange : Obligations.CommandsWithoutExchange := by
  rintro s c t len rsvd rfl
  refine ⟨⟨s.ctrl.cmdResetRegistry, rfl, fun i => mapRegistry_getElem _ _ i.isLt, rfl⟩, ?_⟩
  rintro answer rfl
  exact ⟨rfl, rfl, fun _ => rfl, fun _ => rfl, fun _ => rfl, fun _ => rfl, fun _ => rfl⟩

/-! ### A failed attempt of a command -/

section
variable {c : Controller}

/-- A failed attempt within R_RETRIES sends the latched frame again (rule R294). -/
theorem Controller.cmdAttemptFailed_retries (h : (c.attempts + 1).toNat ≤ c.params.rRetries.toNat) :
    c.cmdAttemptFailed = { Controller.send { c with attempts := c.attempts + 1 } c.txFrame with cst := .cmdTx } :=
  if_pos h

/-- One more than R_RETRIES ends the command, by what it was. -/
theorem Controller.cmdAttemptFailed_ends (h : ¬ (c.attempts + 1).toNat ≤ c.params.rRetries.toNat) :
    c.cmdAttemptFailed =
      if opcOf c.curCmd = 0x05 then { c.finished .unresponsive 0 0 with
        attempts := c.attempts + 1
        selOut := setBit c.selOut c.curSlot.toNat false }
      else if opcOf c.curCmd = 0x04 then { c.finished .transportError 0 0 with attempts := c.attempts + 1 }
      else { (c.setStatus c.curId .unresponsive).finished .unresponsive 0 0 with attempts := c.attempts + 1 } :=
  if_neg h

end

/-- Settles O47: what counts as a failed attempt, the retry, and the ends by the opcode. -/
theorem commandAttemptFails : Obligations.CommandAttemptFails := by
  intro c hgoing
  have counted := Controller.attempts_succ hgoing
  refine ⟨fun hst => ⟨Controller.timeout_cmdWait hst, fun _ => if_pos hst⟩, Controller.txError_cmdTx,
    fun hlt => ?_, fun heq => ?_⟩
  · rw [Controller.cmdAttemptFailed_retries (by omega)]
    rfl
  · rw [Controller.cmdAttemptFailed_ends (by omega)]
    refine ⟨fun hprobe => if_pos hprobe, fun hrestart => ?_, fun hprobe hrestart => ?_⟩
    · rw [hrestart]
      rfl
    · rw [if_neg hprobe, if_neg hrestart]
      exact ⟨fun i => Controller.record_setStatus c c.curId i .unresponsive, rfl⟩

end Sys2Proof.Machine
end

section
/-! ## The lines: driven, on their way, sampled (44_line_arbiter.md)

A level put in flight, a level that arrives, and the levels that the cores sample. -/

namespace Sys2Proof.Machine

/-! ### A change of one slot -/

theorem State.mapSlot_of_no_slot {s : State} {k : Nat} (f : Slot → Slot) (h : s.slots[k]? = none) :
    s.mapSlot k f = s := by
  rw [State.mapSlot, List.modify_eq_set_getElem?, h]
  rfl

theorem State.mapSlot_eq_set {s : State} {k : Nat} {sl : Slot} (f : Slot → Slot) (h : s.slots[k]? = some sl) :
    s.mapSlot k f = { s with slots := s.slots.set k (f sl) } := by
  rw [State.mapSlot, List.modify_eq_set_getElem?, h]
  rfl

/-- A change that leaves the slot as it is changes nothing. -/
theorem State.mapSlot_eq_self {s : State} {k : Nat} {sl : Slot} {f : Slot → Slot} (hs : s.slots[k]? = some sl)
    (hf : f sl = sl) : s.mapSlot k f = s := by
  have same : s.mapSlot k f = s.mapSlot k id :=
    State.mapSlot_congr fun sl' hs' => Option.some.inj (hs.symm.trans hs') ▸ hf
  rw [same, State.mapSlot, List.modify_id]

/-! ### A level on its way -/

theorem Line.arrive_of_nil {l : Line} (h : l.inFlight = []) : l.arrive = l := by
  rw [Line.arrive, h]

theorem Line.arrive_of_cons {l : Line} {b : Bool} {bs : List Bool} (h : l.inFlight = b :: bs) :
    l.arrive = { level := b, inFlight := bs } := by
  rw [Line.arrive, h]

/-- Without the slot there is no line on which a level could arrive. -/
theorem State.lineArrives_of_no_slot {s : State} {k : Nat} (line : LineName) (h : s.slots[k]? = none) :
    s.lineArrives line k = s := by
  cases line with
  | ready => exact State.mapSlot_of_no_slot _ h
  | sel => exact State.mapSlot_of_no_slot _ h

section
variable {s : State} {k : Nat} {sl : Slot} (hs : s.slots[k]? = some sl)
include hs

theorem State.lineArrives_ready_of_nil (h : sl.ready.inFlight = []) : s.lineArrives .ready k = s :=
  State.mapSlot_eq_self hs (by rw [Line.arrive_of_nil h])

theorem State.lineArrives_sel_of_nil (h : sl.sel.inFlight = []) : s.lineArrives .sel k = s :=
  State.mapSlot_eq_self hs (by rw [Line.arrive_of_nil h])

theorem State.lineArrives_ready_of_cons {b : Bool} {bs : List Bool} (h : sl.ready.inFlight = b :: bs) :
    s.lineArrives .ready k =
      { s with slots := s.slots.set k { sl with ready := { level := b, inFlight := bs } } } := by
  rw [← Line.arrive_of_cons h]
  exact State.mapSlot_eq_set _ hs

theorem State.lineArrives_sel_of_cons {b : Bool} {bs : List Bool} (h : sl.sel.inFlight = b :: bs) :
    s.lineArrives .sel k =
      { s with slots := s.slots.set k { sl with sel := { level := b, inFlight := bs } } } := by
  rw [← Line.arrive_of_cons h]
  exact State.mapSlot_eq_set _ hs

end

/-! ### The levels sampled -/

/-- Bit `k + j` of the levels numbered from `k` is the `j`-th level of the list, and low past its end. -/
theorem getLsbD_levelBits {k j : Nat} (bs : List Bool) (h : k + j < 32) :
    (levelBits k bs).getLsbD (k + j) = bs[j]?.getD false := by
  induction bs generalizing k j with
  | nil => exact BitVec.getLsbD_zero
  | cons b bs ih =>
    rw [levelBits, getLsbD_setBit]
    cases j with
    | zero => exact if_pos ⟨rfl, h⟩
    | succ j =>
      rw [if_neg (by omega), show k + (j + 1) = k + 1 + j by omega, ih (by omega), List.getElem?_cons_succ]

/-- What the Controller samples of slot `k` is the level at its end of READY (rule R342). -/
theorem State.getLsbD_readyLevels (s : State) {k : Nat} (h : k < 32) :
    s.readyLevels.getLsbD k = (s.slots[k]?.map (·.ready.level)).getD false := by
  have bit := getLsbD_levelBits (k := 0) (s.slots.map (·.ready.level)) ((Nat.zero_add k).symm ▸ h)
  rwa [Nat.zero_add, List.getElem?_map] at bit

theorem State.getLsbD_readyLevels_of_no_slot {s : State} {k : Nat} (h : s.slots[k]? = none) :
    s.readyLevels.getLsbD k = false := by
  by_cases hk : k < 32
  · rw [s.getLsbD_readyLevels hk, h]
    rfl
  · exact BitVec.getLsbD_of_ge _ _ (Nat.le_of_not_lt hk)

/-! ### LinesDriven -/

/-- Settles O17: the lines driven (`driveSlots_getElem?`), the level that arrives (`State.lineArrives`), and the levels
sampled. -/
theorem linesDriven : Obligations.LinesDriven := by
  refine ⟨fun before s k old now hold hnow => ⟨?_, rfl⟩, fun s line k rest hin => ?_, fun s k => ⟨?_, fun hs => ?_⟩⟩
  · have driven := driveSlots_getElem? before.ctrl.selOut s.ctrl.selOut 0 k before.slots s.slots hold hnow
    rwa [Nat.zero_add] at driven
  · intro taken
    have arrival {t : State} (h : taken.lineArrives line k = t) : step s = .next t :=
      (step_of_single hin).trans (congrArg _ h)
    refine ⟨fun hs => arrival (State.lineArrives_of_no_slot line hs), ?_⟩
    intro sl (hs : taken.slots[k]? = some sl)
    refine ⟨?_, ?_, ?_, ?_⟩
    · rintro rfl hnil
      exact arrival (State.lineArrives_ready_of_nil hs hnil)
    · rintro rfl hnil
      exact arrival (State.lineArrives_sel_of_nil hs hnil)
    · rintro b bs rfl hcons
      exact arrival (State.lineArrives_ready_of_cons hs hcons)
    · rintro b bs rfl hcons
      exact arrival (State.lineArrives_sel_of_cons hs hcons)
  · intro sl hs
    exact ⟨fun hk => by rw [s.getLsbD_readyLevels hk, hs]; rfl, by rw [State.selLevel, hs]; rfl⟩
  · exact ⟨State.getLsbD_readyLevels_of_no_slot hs, by rw [State.selLevel, hs]; rfl⟩

/-! ### OneSelectionLine -/

/-- An asserted Selection-Line is that of the slot of the sequence in progress (rule R347). -/
theorem Controller.Inv.asserted_slot {c : Controller} (h : c.Inv) {k : Nat} (hk : c.selOut.getLsbD k = true) :
    c.inSlotSequence ∧ c.curSlot.toNat = k := by
  rw [h.sel, Controller.expectedSel] at hk
  split at hk
  · rw [getLsbD_one_shiftLeft, decide_eq_true_eq] at hk
    exact ⟨‹_›, hk.1.symm⟩
  · exact absurd hk (by simp)

/-- Settles O58: a line is asserted only for the slot of a sequence (`Controller.Inv.asserted_slot`), and IDLE and the
other commands are no such sequence. -/
theorem oneSelectionLine : Obligations.OneSelectionLine := by
  intro c h
  refine ⟨fun j k hj hk => ?_, fun k hk => ?_, fun hidle => ?_, fun hcmd => (h.commanding hcmd).selOut_of_ne⟩
  · exact (h.asserted_slot hj).2.symm.trans (h.asserted_slot hk).2
  · obtain ⟨hseq, rfl⟩ := h.asserted_slot hk
    exact ⟨h.slot hseq, rfl⟩
  · obtain ⟨_, unselected, _⟩ := (Controller.inv_iff hidle).1 h
    exact unselected

end Sys2Proof.Machine
end

section
/-! ## A tick of the Controller (60_exceptions.md rule R378)

Its phases one by one, each with what it can write: the samples (`Controller.sampled`), the settle wait
(`Controller.tickSettle`) and the response timer (`Controller.tickTimer`). -/

namespace Sys2Proof.Machine

/-! ### Phases 1 to 3: NOW, the Ready-Lines, the gap -/

/-- The Controller before the settle wait counts. -/
def Controller.sampled (c : Controller) (levels : BitVec 32) : Controller :=
  { c.sampleReady levels with now := c.now + 1, framer := (c.framer.gapTick c.params.tGap).1 }

theorem Controller.tick_phases (c : Controller) (levels : BitVec 32) :
    c.tick levels = (c.sampled levels).tickSettle.tickTimer := by
  rw [Controller.tick, Controller.tickGap_eq]
  rfl

theorem Controller.getLsbD_readySync_sampled {c : Controller} (levels : BitVec 32) (h : c.params.nslots ≤ 32)
    (k : Nat) : (c.sampled levels).readySync.getLsbD k = (levels.getLsbD k && decide (k < c.params.nslots)) := by
  change (levels &&& lowMask c.params.nslots).getLsbD k = _
  rw [BitVec.getLsbD_and, getLsbD_lowMask h]

/-- A rising edge sets `pending`, a falling one clears it (44_line_arbiter.md rule R344). -/
theorem Controller.getLsbD_pending_sampled {c : Controller} (levels : BitVec 32) (h : c.params.nslots ≤ 32) {k : Nat}
    (hk : k < c.params.nslots) : (c.sampled levels).pending.getLsbD k =
      if levels.getLsbD k = c.readySync.getLsbD k then c.pending.getLsbD k else levels.getLsbD k := by
  have hsync : (c.sampled levels).readySync.getLsbD k = levels.getLsbD k := by
    rw [c.getLsbD_readySync_sampled levels h, decide_eq_true hk, Bool.and_true]
  change ((c.pending ||| ((c.sampled levels).readySync &&& ~~~c.readySync)) &&&
    ~~~(c.readySync &&& ~~~(c.sampled levels).readySync)).getLsbD k = _
  simp only [BitVec.getLsbD_and, BitVec.getLsbD_or, BitVec.getLsbD_not, Nat.lt_of_lt_of_le hk h, hsync]
  cases levels.getLsbD k <;> cases c.readySync.getLsbD k <;> simp

/-! ### Phase 4: the settle wait -/

/-- The Controller waits for a Selection-Line to settle (42_controller_registration.md rule R265,
43_controller_commands.md rule R299). -/
abbrev CState.isSettle (st : CState) : Prop := st = .regSettle ∨ st = .cmdSettle

section
variable {c : Controller}

theorem Controller.tickSettle_elsewhere (h : ¬c.cst.isSettle) : c.tickSettle = c := by
  unfold Controller.tickSettle
  cases hst : c.cst with
  | regSettle => exact absurd (.inl hst) h
  | cmdSettle => exact absurd (.inr hst) h
  | idle | regTx | regWait | cmdTx | cmdWait => rfl

theorem Controller.tickSettle_counts (h : c.cst.isSettle) (hcount : c.settleCount ≠ 1) :
    c.tickSettle = { c with settleCount := c.settleCount - 1 } := by
  have going : ¬c.settleCount - 1 = 0 := mt sub_eq_zero.1 hcount
  unfold Controller.tickSettle
  rcases h with hst | hst <;> rw [hst] <;> exact if_neg going

/-- The wait is over: the latched frame is sent. -/
theorem Controller.tickSettle_sends (h : c.cst.isSettle) (hcount : c.settleCount = 1) :
    c.tickSettle = { c with
      settleCount := 0
      framer := c.framer.send c.txFrame
      cst := if c.cst = .regSettle then .regTx else .cmdTx } := by
  unfold Controller.tickSettle
  rcases h with hst | hst <;> rw [hst, hcount] <;> rfl

theorem Controller.tickSettle_eq (c : Controller) : c.tickSettle = { c with
    settleCount := c.tickSettle.settleCount
    framer := c.tickSettle.framer
    cst := c.tickSettle.cst } := by
  by_cases hst : c.cst.isSettle
  · by_cases hcount : c.settleCount = 1
    · rw [Controller.tickSettle_sends hst hcount]
    · rw [Controller.tickSettle_counts hst hcount]
  · rw [Controller.tickSettle_elsewhere hst]

/-- A settle wait does not end in a wait for a response. -/
theorem Controller.tickSettle_not_wait (h : c.cst.isSettle) : ¬c.tickSettle.cst.isWait := by
  by_cases hcount : c.settleCount = 1
  · rw [Controller.tickSettle_sends h hcount]
    dsimp only
    split <;> simp
  · rw [Controller.tickSettle_counts h hcount]
    rcases h with hst | hst <;> simp [hst]

end

/-! ### Phase 5: the response timer -/

/-- `c` with the state of the sequence in progress, the Registry, the Selection-Lines and the report of `d`. -/
def Controller.withSequence (c d : Controller) : Controller := { c with
  cst := d.cst
  attempts := d.attempts
  expType := d.expType
  timerArmed := d.timerArmed
  timerCount := d.timerCount
  selOut := d.selOut
  registry := d.registry
  framer := d.framer
  done := d.done
  regEvt := d.regEvt
  evtOvf := d.evtOvf
  result := d.result
  respLen := d.respLen
  respInfo := d.respInfo
  regEvent := d.regEvent }

/-- From `c` to `d` only the sequence in progress went on: of the Registry and the Selection-Lines no more than its own
record and line changed. -/
structure Controller.Continues (c d : Controller) : Prop where
  rest : d = c.withSequence d
  record : ∀ i, i ≠ c.curId → d.record i = c.record i
  sel : ∀ k, k ≠ c.curSlot.toNat → d.selOut.getLsbD k = c.selOut.getLsbD k

/-- A field outside the sequence is that of `c`. -/
theorem Controller.Continues.field {c d : Controller} {α : Type} (h : c.Continues d) (f : Controller → α) :
    f d = f (c.withSequence d) :=
  congrArg f h.rest

section
variable {c : Controller}

theorem Controller.record_setStatus_other {i j : Byte} (h : j ≠ i) (st : RecStatus) :
    (c.setStatus i st).record j = c.record j := by
  rw [c.record_setStatus, if_neg h]

theorem getLsbD_setBit_other {v : BitVec 32} {k j : Nat} {b : Bool} (h : j ≠ k) :
    (setBit v k b).getLsbD j = v.getLsbD j := by
  rw [getLsbD_setBit, if_neg fun e => h e.1]

theorem Controller.continues_regAttemptFailed (c : Controller) : c.Continues c.regAttemptFailed := by
  rw [Controller.regAttemptFailed_eq]
  split
  · exact ⟨rfl, fun _ _ => rfl, fun _ _ => rfl⟩
  · exact ⟨rfl, fun _ hi => Controller.record_setStatus_other (c := c) hi _, fun _ hk => getLsbD_setBit_other hk⟩

theorem Controller.continues_cmdAttemptFailed (c : Controller) : c.Continues c.cmdAttemptFailed := by
  by_cases hleft : (c.attempts + 1).toNat ≤ c.params.rRetries.toNat
  · rw [Controller.cmdAttemptFailed_retries hleft]
    exact ⟨rfl, fun _ _ => rfl, fun _ _ => rfl⟩
  rw [Controller.cmdAttemptFailed_ends hleft]
  split
  · exact ⟨rfl, fun _ _ => rfl, fun _ hk => getLsbD_setBit_other hk⟩
  split
  · exact ⟨rfl, fun _ _ => rfl, fun _ _ => rfl⟩
  · exact ⟨rfl, fun _ hi => Controller.record_setStatus_other (c := c) hi _, fun _ _ => rfl⟩

/-- Only a wait for a response acts on `Timeout`. -/
theorem Controller.timeout_elsewhere (h : ¬c.cst.isWait) : c.timeout = c := by
  unfold Controller.timeout
  cases hst : c.cst with
  | regWait => exact absurd (.inl hst) h
  | cmdWait => exact absurd (.inr hst) h
  | idle | regSettle | regTx | cmdSettle | cmdTx => rfl

theorem Controller.continues_timeout (c : Controller) : c.Continues c.timeout := by
  by_cases hst : c.cst.isWait
  · rcases hst with hst | hst
    · rw [Controller.timeout_regWait hst]
      exact c.continues_regAttemptFailed
    · rw [Controller.timeout_cmdWait hst]
      exact c.continues_cmdAttemptFailed
  · rw [Controller.timeout_elsewhere hst]
    exact ⟨rfl, fun _ _ => rfl, fun _ _ => rfl⟩

theorem Controller.tickTimer_counts (h : c.timerArmed = false ∨ c.timerCount ≠ 1) : c.tickTimer = { c with
    timerCount := if c.timerArmed then c.timerCount - 1 else c.timerCount } := by
  unfold Controller.tickTimer
  split
  next harmed =>
    have going : ¬c.timerCount - 1 = 0 := mt sub_eq_zero.1 (h.resolve_left (by simp [harmed]))
    exact if_neg going
  next => rfl

theorem Controller.tickTimer_runs_out (harmed : c.timerArmed = true) (hcount : c.timerCount = 1) :
    c.tickTimer = Controller.timeout { c with timerArmed := false, timerCount := 0 } := by
  rw [Controller.tickTimer, if_pos harmed, hcount]
  rfl

/-- The timer counts or runs out. -/
theorem Controller.tickTimer_cases (c : Controller) : (∃ n, c.tickTimer = { c with timerCount := n }) ∨
    c.tickTimer = Controller.timeout { c with timerArmed := false, timerCount := 0 } := by
  by_cases h : c.timerArmed = true ∧ c.timerCount = 1
  · exact .inr (Controller.tickTimer_runs_out h.1 h.2)
  · rw [not_and_or, Bool.not_eq_true] at h
    exact .inl ⟨_, Controller.tickTimer_counts h⟩

theorem Controller.continues_tickTimer (c : Controller) : c.Continues c.tickTimer := by
  rcases c.tickTimer_cases with ⟨n, h⟩ | h <;> rw [h]
  · exact ⟨rfl, fun _ _ => rfl, fun _ _ => rfl⟩
  · exact { Controller.continues_timeout { c with timerArmed := false, timerCount := 0 } with }

theorem Controller.tickTimer_elsewhere (hst : ¬c.cst.isWait) :
    c.tickTimer.framer = c.framer ∧ c.tickTimer.cst = c.cst := by
  rcases c.tickTimer_cases with ⟨n, h⟩ | h <;> rw [h]
  · exact ⟨rfl, rfl⟩
  · rw [Controller.timeout_elsewhere (c := { c with timerArmed := false, timerCount := 0 }) hst]
    exact ⟨rfl, rfl⟩

end

/-! ### The whole tick -/

section
variable {c : Controller} (levels : BitVec 32)

/-- A tick writes what it samples, the settle wait, and what the sequence in progress writes. -/
theorem Controller.continues_tick (c : Controller) : Controller.Continues
    { c.sampled levels with settleCount := (c.tick levels).settleCount } (c.tick levels) := by
  obtain ⟨rest, record, sel⟩ := (c.sampled levels).tickSettle.continues_tickTimer
  rw [← c.tick_phases, (c.sampled levels).tickSettle_eq] at rest record sel
  have hsettle := congrArg Controller.settleCount rest
  refine ⟨?_, record, sel⟩
  rw [hsettle]
  exact rest

/-- The response timer does not act on a settle wait. -/
theorem Controller.tick_in_settle (h : c.cst.isSettle) :
    (c.tick levels).settleCount = (c.sampled levels).tickSettle.settleCount ∧
    (c.tick levels).framer = (c.sampled levels).tickSettle.framer ∧
    (c.tick levels).cst = (c.sampled levels).tickSettle.cst := by
  rw [c.tick_phases]
  exact ⟨(Controller.continues_tickTimer _).field Controller.settleCount,
    Controller.tickTimer_elsewhere (Controller.tickSettle_not_wait (c := c.sampled levels) h)⟩

theorem Controller.tick_outside_settle (h : ¬c.cst.isSettle) : c.tick levels = (c.sampled levels).tickTimer := by
  rw [c.tick_phases, Controller.tickSettle_elsewhere (c := c.sampled levels) h]

/-- A tick on which the response timer does not run out. -/
theorem Controller.tick_timer_counts (h : c.timerArmed = false ∨ c.timerCount ≠ 1) :
    c.tick levels = { c.sampled levels with
      settleCount := (c.tick levels).settleCount
      framer := (c.tick levels).framer
      cst := (c.tick levels).cst
      timerCount := if c.timerArmed then c.timerCount - 1 else c.timerCount } := by
  have settled := (c.sampled levels).tickSettle_eq
  have counted : c.tick levels = { (c.sampled levels).tickSettle with
      timerCount := if c.timerArmed then c.timerCount - 1 else c.timerCount } := by
    rw [c.tick_phases, settled]
    exact Controller.tickTimer_counts h
  rw [counted, settled]

/-- A tick on which the response timer runs out in a wait for a response. -/
theorem Controller.tick_times_out (hst : c.cst.isWait) (harmed : c.timerArmed = true) (hcount : c.timerCount = 1) :
    c.tick levels = Controller.timeout { c.sampled levels with timerArmed := false, timerCount := 0 } := by
  have noSettle : ¬c.cst.isSettle := by rcases hst with hst | hst <;> simp [hst]
  rw [Controller.tick_outside_settle levels noSettle]
  exact Controller.tickTimer_runs_out (c := c.sampled levels) harmed hcount

end

/-- Settles O49: what a tick leaves unchanged (`continues_tick`), the bits it samples, and the settle wait and the timer
by their cases. -/
theorem controllerTick : Obligations.ControllerTick := by
  intro c levels hslots
  have kept := c.continues_tick levels
  have hsync : (c.tick levels).readySync = (c.sampled levels).readySync := kept.field Controller.readySync
  have hpending : (c.tick levels).pending = (c.sampled levels).pending := kept.field Controller.pending
  refine ⟨kept.field Controller.now, kept.field Controller.readyPrev, fun k hk => ?samples, fun k hk => ?noSlot,
    kept.field Controller.nextId, kept.field Controller.cmdValid, kept.field Controller.cmdLatched,
    kept.field Controller.cmd, kept.field Controller.irqEn, kept.field Controller.curCmd,
    kept.field Controller.mem, kept.field Controller.txFrame, kept.field Controller.curId,
    kept.field Controller.curSlot, kept.field Controller.params, kept.record, kept.sel, ?phases,
    fun hreg hcmd => ?noSettle, fun htimer => ?counts⟩
  case samples =>
    rw [hsync, hpending, c.getLsbD_readySync_sampled levels hslots, decide_eq_true hk, Bool.and_true]
    exact ⟨rfl, c.getLsbD_pending_sampled levels hslots hk⟩
  case noSlot =>
    rw [hsync, c.getLsbD_readySync_sampled levels hslots, decide_eq_false (Nat.not_lt.2 hk), Bool.and_false]
  case noSettle =>
    rw [Controller.tick_outside_settle levels fun h => h.elim hreg hcmd]
    exact (c.sampled levels).continues_tickTimer.field Controller.settleCount
  case counts =>
    rw [hsync, hpending]
    exact Controller.tick_timer_counts levels htimer
  case phases =>
    rintro fr rfl
    refine ⟨fun hst hcount => ?_, fun hst hcount => ?_, fun hreg hcmd htimer => ?_, fun hst harmed hcount => ?_⟩
    · have settled := Controller.tick_in_settle levels hst
      rwa [Controller.tickSettle_sends (c := c.sampled levels) hst hcount] at settled
    · have settled := Controller.tick_in_settle levels hst
      rwa [Controller.tickSettle_counts (c := c.sampled levels) hst hcount] at settled
    · rw [Controller.tick_outside_settle levels fun h => h.elim hreg hcmd,
        Controller.tickTimer_counts (c := c.sampled levels) htimer]
      exact ⟨rfl, rfl⟩
    · rw [hsync, hpending]
      exact Controller.tick_times_out levels hst harmed hcount

end Sys2Proof.Machine
end

section
/-! ## Requests that fail a check (60_exceptions.md rule R379) -/

namespace Sys2Proof.Machine

/-! ### The checks -/

section
variable {c : Controller} {t : Byte}

theorem Controller.checkTarget_eq_none (ht : assignable t) (hrec : (c.record t).status = .registered) :
    c.checkTarget t = none := by
  unfold Controller.checkTarget
  rw [if_neg fun h => h.elim ht.1 ht.2, hrec]
  rfl

theorem Controller.checkTarget_badTarget (ht : t = 0x00 ∨ t = 0xFF) : c.checkTarget t = some .badTarget :=
  if_pos ht

theorem Controller.checkTarget_absent (ht : assignable t) (hrec : (c.record t).status = .absent) :
    c.checkTarget t = some .noSuchExtension :=
  (if_neg fun h => h.elim ht.1 ht.2).trans (if_pos hrec)

theorem Controller.checkTarget_notRegistered (ht : assignable t) (habsent : (c.record t).status ≠ .absent)
    (hrec : (c.record t).status ≠ .registered) : c.checkTarget t = some .notRegistered :=
  (if_neg fun h => h.elim ht.1 ht.2).trans ((if_neg habsent).trans (if_pos hrec))

/-- The first failing check of the target ends the request, whatever its packet (rule R379). -/
theorem Controller.request_of_checkTarget {r : ResultCode} (h : c.checkTarget t = some r) (payload : Payload)
    (exp : PacketType) : c.request t payload exp = c.finished r 0 0 := by
  rw [Controller.request, h]
  exact c.complete_nil r 0

/-- So does a payload that no frame can carry, once the target passed. -/
theorem Controller.request_too_long {payload : Payload} {exp : PacketType} (ht : c.checkTarget t = none)
    (hlong : 252 < (serialize payload).length) : c.request t payload exp = c.finished .formatError 0 0 := by
  simp only [Controller.request, ht, encodePacket_of_too_long c.params t hlong]
  exact c.complete_nil .formatError 0

/-- The three commands are requests to their target (rules R300, R302, R304). -/
theorem exec_request {s : State} {len rsvd : Byte} {i : Instr}
    (h : i = .cmdMetrics t len rsvd ∨ i = .cmdConfigOptions t len rsvd ∨ i = .cmdConfigure t len rsvd) :
    ∃ (payload : Controller → Payload) (exp : PacketType),
      exec i s = .next (s.mapCtrl fun c => c.request t (payload c) exp) := by
  rcases h with rfl | rfl | rfl
  · exact ⟨_, _, rfl⟩
  · exact ⟨_, _, rfl⟩
  · exact ⟨fun c => .configure (c.txData len.toNat), _, rfl⟩

end

/-! ### The statement -/

/-- Settles O39: each clause is the first check that fails, of the target (`request_of_checkTarget`) or of the length
(`request_too_long`). -/
theorem requestErrors : Obligations.RequestErrors := by
  rintro s c t len rsvd i rfl hi
  have refused {r : ResultCode} (h : s.ctrl.checkTarget t = some r) :
      exec i s = .next { s with ctrl := s.ctrl.finished r 0 0 } := by
    obtain ⟨payload, exp, hexec⟩ := exec_request hi
    exact exec_of_rule hexec (Controller.request_of_checkTarget h _ exp)
  refine ⟨fun ht => refused (Controller.checkTarget_badTarget ht),
    fun ht habsent => refused (Controller.checkTarget_absent ht habsent),
    fun ht habsent hrec => refused (Controller.checkTarget_notRegistered ht habsent hrec), fun ht hrec hlen => ?_⟩
  have tooLong : 252 < (serialize (.configure (s.ctrl.txData len.toNat))).length := by
    simp only [serialize, blob, List.length_cons, Controller.txData, Memory.readBytes_length]
    omega
  exact exec_of_rule rfl (Controller.request_too_long (Controller.checkTarget_eq_none ht hrec) tooLong)

end Sys2Proof.Machine
end

section
/-! ## The interrupt outputs (60_exceptions.md rule R370) -/

namespace Sys2Proof.Machine

/-- Two words have a bit in common. -/
theorem and_ne_zero_iff {w : Nat} (x y : BitVec w) :
    x &&& y ≠ 0 ↔ ∃ i, i < w ∧ x.getLsbD i = true ∧ y.getLsbD i = true := by
  constructor
  · intro h
    by_contra none
    refine h (BitVec.eq_of_getLsbD_eq fun i hi => ?_)
    rw [BitVec.getLsbD_and, BitVec.ofNat_eq_ofNat, BitVec.getLsbD_zero, ← Bool.not_eq_true, Bool.and_eq_true]
    exact fun hbits => none ⟨i, hi, hbits⟩
  · rintro ⟨i, -, hx, hy⟩ h
    have bit := congrArg (BitVec.getLsbD · i) h
    simp [hx, hy] at bit

/-- The flags are bits 4 to 1 of STATUS (10_state.md rule R44). -/
theorem Controller.getLsbD_statusWord_succ (c : Controller) {i : Nat} (h : i < 4) :
    c.statusWord.getLsbD (i + 1) = c.flags.getLsbD i := by
  simp only [Controller.statusWord, BitVec.getLsbD_append]
  interval_cases i <;> simp

/-- The enables are bits 4 to 1 of IRQ_EN (10_state.md rule R46). -/
theorem Controller.getLsbD_wordAt_irqEn (c : Controller) {i : Nat} (h : i < 4) :
    (c.wordAt 0x014).getLsbD (i + 1) = c.irqEn.getLsbD i := by
  rw [show c.wordAt 0x014 = 0#27 ++ c.irqEn ++ 0#1 from rfl]
  simp only [BitVec.getLsbD_append]
  simp [h]

theorem Controller.irq_eq_true_iff (c : Controller) :
    c.irq = true ↔ ∃ i, i < 4 ∧ c.flags.getLsbD i = true ∧ c.irqEn.getLsbD i = true :=
  decide_eq_true_iff.trans (and_ne_zero_iff c.flags c.irqEn)

theorem Extension.irq_eq_true_iff (e : Extension) :
    e.irq = true ↔ ∃ i, i < 4 ∧ e.events.getLsbD i = true ∧ e.irqEn.getLsbD i = true :=
  decide_eq_true_iff.trans (and_ne_zero_iff e.events e.irqEn)

theorem Controller.irq_of_no_enable {c : Controller} (h : c.irqEn = 0) : c.irq = false :=
  decide_eq_false fun pending => pending (by rw [h]; exact BitVec.and_zero)

theorem Extension.irq_of_no_enable {e : Extension} (h : e.irqEn = 0) : e.irq = false :=
  decide_eq_false fun pending => pending (by rw [h]; exact BitVec.and_zero)

/-- The events and the enables are bits 3 to 0 of their words (10_state.md rules R62, R63). -/
theorem Extension.getLsbD_wordAt_events_irqEn (e : Extension) {i : Nat} (h : i < 4) :
    (e.wordAt 0x008).getLsbD i = e.events.getLsbD i ∧ (e.wordAt 0x00C).getLsbD i = e.irqEn.getLsbD i := by
  rw [e.wordAt_events, show e.wordAt 0x00C = e.irqEn.setWidth 32 from rfl]
  simp [Nat.lt_trans h (by decide : 4 < 32)]

/-- Settles O53: an output is high when the flags and the enables share a bit, and each bit has its place in the word
the host reads. -/
theorem interruptOutputs : Obligations.InterruptOutputs := by
  refine ⟨fun c => ?controller, fun e => ?board, fun p levels d => Controller.irq_of_no_enable rfl,
    fun p sel d => Extension.irq_of_no_enable rfl⟩
  case controller =>
    rw [c.irq_eq_true_iff, c.wordAt_status]
    constructor
    · rintro ⟨i, hi, hflag, hen⟩
      exact ⟨i + 1, by omega, by omega, (c.getLsbD_statusWord_succ hi).trans hflag,
        (c.getLsbD_wordAt_irqEn hi).trans hen⟩
    · rintro ⟨b, hlow, hhigh, hflag, hen⟩
      obtain ⟨i, rfl⟩ : ∃ i, b = i + 1 := ⟨b - 1, by omega⟩
      have hi : i < 4 := by omega
      exact ⟨i, hi, (c.getLsbD_statusWord_succ hi).symm.trans hflag, (c.getLsbD_wordAt_irqEn hi).symm.trans hen⟩
  case board =>
    rw [e.irq_eq_true_iff]
    refine exists_congr fun i => ?_
    rw [← Nat.lt_succ_iff]
    refine and_congr_right fun hi => ?_
    obtain ⟨hevents, henables⟩ := e.getLsbD_wordAt_events_irqEn hi
    rw [hevents, henables]

end Sys2Proof.Machine
end

section
/-! ## No step stops the machine (60_exceptions.md rule R364)

Every part of a step that could end in a fault or a refusal has a next state, because every instruction has one
(`exec_eq_next`). -/

namespace Sys2Proof.Machine

/-! ### Outcomes -/

/-- The outcome is a next state, not a fault and not a refusal. -/
def GoesOn (o : Host.Outcome State Fault Refusal) : Prop := ∃ t, o = .next t

theorem goesOn_next (t : State) : GoesOn (.next t) := ⟨t, rfl⟩

theorem GoesOn.ite {p : Prop} [Decidable p] {o o' : Host.Outcome State Fault Refusal} (h : GoesOn o) (h' : GoesOn o') :
    GoesOn (if p then o else o') := by
  split
  · exact h
  · exact h'

theorem exec_goesOn (i : Instr) (s : State) : GoesOn (exec i s) :=
  let ⟨t, ht, _⟩ := exec_eq_next i s
  ⟨t, ht⟩

/-! ### The end of a step -/

theorem State.arbitrate_goesOn (s : State) : GoesOn s.arbitrate := by
  refine .ite (goesOn_next _) ?_
  split
  · exact goesOn_next _
  · exact .ite (exec_goesOn _ _) (goesOn_next _)

/-- What follows an event at a node stops the machine only if the event did. -/
theorem GoesOn.endStep {o : Host.Outcome State Fault Refusal} (h : GoesOn o) (before : State) (n : Node) :
    GoesOn (endStep before n o) := by
  obtain ⟨t, rfl⟩ := h
  cases n with
  | controller =>
    obtain ⟨u, hu⟩ := t.arbitrate_goesOn
    exact ⟨_, endStep_controller hu⟩
  | slot k => exact ⟨_, endStep_slot before t k⟩

theorem endStep_next_goesOn (before : State) (n : Node) (t : State) : GoesOn (endStep before n (.next t)) :=
  (goesOn_next t).endStep before n

/-! ### The events -/

theorem State.deliverFrame_goesOn (s : State) (p : Params) (bytes : List Byte) : GoesOn (s.deliverFrame p bytes) := by
  unfold State.deliverFrame
  split
  · exact exec_goesOn _ _
  · exact goesOn_next _

theorem State.receive_goesOn (s : State) (n : Node) (b : Byte) : GoesOn (s.receive n b) := by
  unfold State.receive
  split
  · refine .ite (goesOn_next _) ?_
    dsimp only
    split
    · exact endStep_next_goesOn _ _ _
    · exact (State.deliverFrame_goesOn _ _ _).endStep _ _
  · exact goesOn_next _

theorem State.deliverByte_goesOn (s : State) (n : Node) : GoesOn (s.deliverByte n) := by
  refine .ite (goesOn_next _) ?_
  split
  · exact goesOn_next _
  · exact State.receive_goesOn _ _ _

theorem State.corruptByte_goesOn (s : State) (n : Node) (b : Byte) : GoesOn (s.corruptByte n b) := by
  refine .ite (goesOn_next _) ?_
  split
  · exact goesOn_next _
  · exact State.receive_goesOn _ _ _

theorem State.tick_goesOn (s : State) (n : Node) : GoesOn (s.tick n) := by
  cases n with
  | controller => exact endStep_next_goesOn s .controller _
  | slot k => exact endStep_next_goesOn s (.slot k) _

/-- Every event is processed to completion (00_scope.md rule R14). -/
theorem State.handle_goesOn (s : State) (ev : Event) : GoesOn (s.handle ev) := by
  cases ev with
  | txDone n | txError n => exact .ite (endStep_next_goesOn _ _ _) (goesOn_next _)
  | rxByte n b => exact .ite (s.receive_goesOn n b) (goesOn_next _)
  | deliver n => exact s.deliverByte_goesOn n
  | corrupt n b => exact s.corruptByte_goesOn n b
  | cut | noiseEnds | strobe | lineArrives => exact goesOn_next _
  | memRead | memWrite => exact .ite (goesOn_next _) (.ite (endStep_next_goesOn _ _ _) (goesOn_next _))
  | tick n => exact s.tick_goesOn n
  | reset | attach => exact .ite (goesOn_next _) (endStep_next_goesOn _ _ _)
  | detach k => exact .ite (goesOn_next _) (goesOn_next _)
  | framer n op => exact exec_goesOn _ _

/-- Settles O57: an instant without events goes on, and so does every event (`State.handle_goesOn`). -/
theorem neverStops : Obligations.NeverStops := by
  intro s
  change GoesOn s.stepEvent
  unfold State.stepEvent
  split
  · exact goesOn_next _
  next ev s1 _ => exact s1.handle_goesOn ev

end Sys2Proof.Machine
end

section
/-! ## Reset, insertion and removal (70_reset_and_hazards.md R401..R403, 60_exceptions.md R382)

A reset input, an insertion and a removal change the core of one node, give up its transmission and drive its lines.
First what the driving of the lines does to one slot, then each of the three. -/

namespace Sys2Proof.Machine

/-! ### The state after reset -/

/-- Parameters in range give a bus that meets the invariant. -/
theorem State.resetWith_inv {p : Params} (hp : p.ok) : (State.resetWith p).Inv := by
  have standing : ∀ k e, (State.resetWith p).board k = some e → Extension.reset p false [] [] = e := by
    intro k e he
    obtain ⟨sl, hs, hb⟩ := State.board_eq_some he
    cases List.eq_of_mem_replicate (List.mem_of_getElem? hs)
    exact Option.some.inj hb
  have ctrl := Controller.reset_inv hp 0 (List.replicate 256 0x00) Memory.nil_wf Memory.nil_wf
  rw [show (0 : BitVec 32) &&& lowMask p.nslots = 0 from BitVec.zero_and] at ctrl
  exact {
    ctrl := ctrl
    boards := fun k e he => standing k e he ▸ Extension.reset_inv hp false Memory.nil_wf Memory.nil_wf
    slots := List.length_replicate
    ctrlSent := rfl
    boardsSent := fun k e he => standing k e he ▸ rfl }

/-- Settles O55: the parameters of the vectors are in range. -/
theorem resetInv : Obligations.ResetInv := State.resetWith_inv (by decide)

/-! ### The lines of one slot -/

theorem State.board_of_slot {s : State} {k : Nat} {sl : Slot} {e : Extension} (hs : s.slots[k]? = some sl)
    (hb : sl.board = some e) : s.board k = some e := by
  rw [State.board, hs, Option.bind_some, hb]

/-- The fields of the medium do not matter, after the change as before it (`State.SameBut.of_eq`). -/
theorem State.SameBut.with_fields {s t u : State} {n : Node} (h : s.SameBut t n) (hc : u.ctrl = t.ctrl)
    (hs : u.slots = t.slots) : s.SameBut u n :=
  h.trans ((State.SameCores.of_fields hc hs).but n)

/-- What a slot is after a step that left its board as it was: its SEL is driven if it changed (44_line_arbiter.md rule
R343). -/
theorem State.driveLines_slot_of_board {s before : State} {j : Nat} (hlen : s.slots.length = before.slots.length)
    (hboard : s.board j = before.board j) : (s.driveLines before).slots[j]? = s.slots[j]?.map fun sl => { sl with
      sel := if s.ctrl.selOut.getLsbD j = before.ctrl.selOut.getLsbD j then sl.sel
        else sl.sel.drive (s.ctrl.selOut.getLsbD j) } := by
  cases hs : s.slots[j]? with
  | none =>
    rw [List.getElem?_eq_none_iff] at hs
    simpa using hs
  | some sl =>
    obtain ⟨hj, -⟩ := List.getElem?_eq_some_iff.1 hs
    have ho := List.getElem?_eq_getElem (hlen ▸ hj)
    have same : sl.board = before.slots[j].board := by simpa [State.board, hs, ho] using hboard
    have driven := driveSlots_getElem? before.ctrl.selOut s.ctrl.selOut 0 j before.slots s.slots ho hs
    rw [Nat.zero_add, same, if_pos rfl, ← same] at driven
    exact driven

theorem readyDriven_of_board {sl : Slot} {e : Extension} (h : sl.board = some e) :
    readyDriven sl.board = e.readyOut := by
  rw [h]
  rfl

/-- A step that changed only the board in slot `k` drives at most its READY. -/
theorem State.driveLines_of_slot {s before : State} {k : Nat} {old sl : Slot} (same : before.SameBut s (.slot k))
    (ho : before.slots[k]? = some old) (hs : s.slots[k]? = some sl) :
    s.driveLines before = { s with slots := s.slots.set k { sl with
      ready := if readyDriven sl.board = readyDriven old.board then sl.ready
        else sl.ready.drive (readyDriven sl.board) } } := by
  have hsel : s.ctrl.selOut = before.ctrl.selOut := congrArg (·.selOut) (same.ctrl nofun)
  suffices slots : (s.driveLines before).slots = s.slots.set k { sl with
      ready := if readyDriven sl.board = readyDriven old.board then sl.ready
        else sl.ready.drive (readyDriven sl.board) } by
    rw [← slots]
    rfl
  refine List.ext_getElem? fun j => ?_
  by_cases hj : k = j
  · subst hj
    obtain ⟨hk, -⟩ := List.getElem?_eq_some_iff.1 hs
    have driven := driveSlots_getElem? before.ctrl.selOut s.ctrl.selOut 0 k before.slots s.slots ho hs
    rw [hsel, if_pos rfl] at driven
    rw [List.getElem?_set_self hk, State.driveLines_slots, hsel, driven]
  · have kept := State.driveLines_slot_of_board same.length (same.board j fun h => hj (Node.slot.inj h))
    rw [List.getElem?_set_ne hj, kept, hsel]
    simp

/-! ### The transmission given up (70_reset_and_hazards.md rule R403) -/

theorem State.abandon_with_inputs (s : State) (ins : List (List Event)) (n : Node) :
    State.abandon { s with inputs := ins } n = { s.abandon n with inputs := ins } := by
  unfold State.abandon
  rw [State.busy_with_inputs]
  split <;> rfl

/-- Of a slot only its wire can change. -/
theorem State.abandon_slot (s : State) (n : Node) {k : Nat} {sl : Slot} (h : s.slots[k]? = some sl) :
    (s.abandon n).slots[k]? = some { sl with wire := (s.abandon n).wire (.slot k) } := by
  obtain ⟨w, hw⟩ : ∃ w, (s.abandon n).slots[k]? = some { sl with wire := w } := by
    unfold State.abandon
    split
    · rw [State.giveUp, State.leaveLine_slots, State.mapWires_slots, mapSlotWires_getElem?, h, Option.map_some]
      unfold Slot.mapWire
      split <;> exact ⟨_, rfl⟩
    · exact ⟨sl.wire, h⟩
  rw [State.wire, hw]
  rfl

theorem State.lt_abandon_slots {s : State} {k : Nat} {sl : Slot} (n : Node) (h : s.slots[k]? = some sl) :
    k < (s.abandon n).slots.length :=
  (List.getElem?_eq_some_iff.1 (s.abandon_slot n h)).1

/-! ### The reset input -/

/-- Bit `k` of `pending` and `ready_sync` is the level sampled of READY[k] (rule R401). -/
theorem getLsbD_resetController_pending (p : Params) (levels : BitVec 32) (d : Nat) {k : Nat} (hk : k < p.nslots) :
    (resetController p levels d).pending.getLsbD k = levels.getLsbD k := by
  change (levels &&& lowMask p.nslots).getLsbD k = levels.getLsbD k
  by_cases h : k < 32
  · rw [getLsbD_and_lowMask _ _ h, decide_eq_true hk, Bool.true_and]
  · rw [BitVec.getLsbD_of_ge _ _ (Nat.le_of_not_lt h), BitVec.getLsbD_of_ge _ _ (Nat.le_of_not_lt h)]

/-- STATUS reads 0 after the reset of the Controller. -/
theorem resetController_statusWord (p : Params) (levels : BitVec 32) (d : Nat) :
    (resetController p levels d).statusWord = 0 := by
  simp [Controller.statusWord_eq, resetController, Controller.reset, ResultCode.code]

/-- The bus after the reset input of the core at `n`, whose lines are at their reset levels, before `arbitrate()`. -/
def State.resetDriven (s : State) (n : Node) : State := (s.resetCore n).driveLines s

theorem State.resetNode_of_present {s : State} {n : Node} (h : s.present n = true) :
    s.resetNode n = endStep (s.resetDriven n) n (.next (s.resetDriven n)) := by
  simp only [State.resetNode, h, Bool.not_true, Bool.false_eq_true, if_false]
  rfl

theorem State.sameBut_resetCore (s : State) (n : Node) : s.SameBut (s.resetCore n) n :=
  (((s.sameCores_abandon n).but n).trans (State.sameBut_mapNode _ n _ _)).with_fields rfl rfl

/-- A board that was just reset has sent nothing. -/
theorem State.transmit_of_reset_board {s : State} {k : Nat} {p : Params} {sel : Bool} {d : Nat}
    (h : s.board k = some (resetExtension p sel d)) : s.transmit (.slot k) = s :=
  State.transmit_of_empty fun fr hfr => by
    rw [State.framer, h] at hfr
    exact Option.some.inj hfr ▸ rfl

section
variable {s : State} {k : Nat} {sl : Slot} {e : Extension} (hs : s.slots[k]? = some sl) (hb : sl.board = some e)
include hs hb

/-- The slot of a board after its reset: the board, and its READY, which is driven high if it was not (rule R402). -/
theorem State.resetDriven_slots : (s.resetDriven (.slot k)).slots = (s.abandon (.slot k)).slots.set k { sl with
    board := some (resetExtension e.params sl.sel.level s.draws)
    ready := if e.readyOut then sl.ready else { sl.ready with inFlight := sl.ready.inFlight ++ [true] }
    wire := (s.abandon (.slot k)).wire (.slot k) } := by
  have level : s.selLevel k = sl.sel.level := by simp [State.selLevel, hs]
  have reset : (s.resetCore (.slot k)).slots = (s.abandon (.slot k)).slots.set k { sl with
      board := some (resetExtension e.params sl.sel.level s.draws)
      wire := (s.abandon (.slot k)).wire (.slot k) } := by
    simp only [State.resetCore, State.mapNode, State.mapBoard, State.mapSlot_eq_set _ (s.abandon_slot _ hs), hb, level,
      Option.map_some]
  have stands : (s.resetCore (.slot k)).slots[k]? = some { sl with
      board := some (resetExtension e.params sl.sel.level s.draws)
      wire := (s.abandon (.slot k)).wire (.slot k) } := by
    rw [reset, List.getElem?_set_self (State.lt_abandon_slots _ hs)]
  rw [State.resetDriven, State.driveLines_of_slot (s.sameBut_resetCore _) hs stands, reset, List.set_set,
    readyDriven_of_board hb]
  cases e.readyOut <;> rfl

theorem State.resetNode_slot : s.resetNode (.slot k) = .next (s.resetDriven (.slot k)) := by
  have present : s.present (.slot k) = true := State.present_of_board (State.board_of_slot hs hb)
  have board : (s.resetDriven (.slot k)).board k = some (resetExtension e.params sl.sel.level s.draws) := by
    rw [State.board, State.resetDriven_slots hs hb, List.getElem?_set_self (State.lt_abandon_slots _ hs)]
    rfl
  rw [State.resetNode_of_present present, endStep_slot, State.transmit_of_reset_board board, State.driveLines_self]

end

/-- The slots after the Controller's reset: every SEL that was high is driven low (rule R401). -/
theorem State.resetDriven_controller_slot (s : State) (k : Nat) :
    (s.resetDriven .controller).slots[k]? = ((s.abandon .controller).slots[k]?).map fun sl => { sl with
      sel := if s.ctrl.selOut.getLsbD k then { sl.sel with inFlight := sl.sel.inFlight ++ [false] } else sl.sel } := by
  have same := s.sameBut_resetCore .controller
  rw [State.resetDriven, State.driveLines_slot_of_board same.length (same.board k nofun)]
  have low : (s.resetCore .controller).ctrl.selOut.getLsbD k = false := BitVec.getLsbD_zero
  rw [low]
  cases s.ctrl.selOut.getLsbD k <;> rfl

/-- Otherwise the reset of a board changes nothing but the transmission given up. -/
theorem State.resetDriven_slot_frame (s : State) (k : Nat) : s.resetDriven (.slot k) = { s.abandon (.slot k) with
    slots := (s.resetDriven (.slot k)).slots, active := .slot k, draws := s.draws + 1 } := rfl

theorem State.resetDriven_controller_frame (s : State) :
    s.resetDriven .controller = { s.abandon .controller with
      ctrl := resetController s.ctrl.params s.readyLevels s.draws
      slots := (s.resetDriven .controller).slots
      active := .controller
      draws := s.draws + 1 } := by
  rw [← (s.sameCores_abandon .controller).ctrl]
  rfl

/-- A slot is pending after the reset of the Controller exactly if its Ready-Line was sampled high (rule R401). -/
theorem State.getLsbD_resetDriven_pending (s : State) {k : Nat} (hk : k < s.ctrl.params.nslots) :
    (s.resetDriven .controller).ctrl.pending.getLsbD k = s.readyLevels.getLsbD k := by
  rw [s.resetDriven_controller_frame]
  exact getLsbD_resetController_pending _ _ _ hk

theorem State.resetDriven_nslots (s : State) :
    (s.resetDriven .controller).ctrl.params.nslots = s.ctrl.params.nslots := by
  rw [s.resetDriven_controller_frame]
  rfl

/-- With no Ready-Line sampled high nothing follows the reset of the Controller. -/
theorem State.endStep_resetDriven_of_low {s : State}
    (h : ∀ k, k < s.ctrl.params.nslots → s.readyLevels.getLsbD k = false) :
    endStep (s.resetDriven .controller) .controller (.next (s.resetDriven .controller)) =
      .next (s.resetDriven .controller) := by
  have nothing : (s.resetDriven .controller).ctrl.lowestPending = none :=
    Controller.lowestPending_eq_none fun k hk =>
      have hk' := s.resetDriven_nslots ▸ hk
      (s.getLsbD_resetDriven_pending hk').trans (h k hk')
  exact endStep_controller_quiet (State.arbitrate_quiet (.inr ⟨nothing, rfl⟩)) rfl rfl rfl

/-- Else the lowest slot sampled high starts its registration. -/
theorem State.arbitrate_resetDriven {s : State} {k : Nat} (hk : k < s.ctrl.params.nslots)
    (hready : s.readyLevels.getLsbD k = true) (hlow : ∀ j, j < k → s.readyLevels.getLsbD j = false) :
    (s.resetDriven .controller).arbitrate = .next { s.resetDriven .controller with
      ctrl := (s.resetDriven .controller).ctrl.startRegistration k } :=
  (arbitration _).2.1 k rfl (s.resetDriven_nslots ▸ hk) ((s.getLsbD_resetDriven_pending hk).trans hready)
    fun j hj => (s.getLsbD_resetDriven_pending (hj.trans hk)).trans (hlow j hj)

/-! ### Insertion and removal (60_exceptions.md rule R382) -/

/-- The bus with a new board in slot `k`, before its READY is driven. -/
def State.insertBoard (s : State) (k : Nat) (p : Params) : State :=
  { s.mapSlot k (fun sl => { sl with board := some (resetExtension p sl.sel.level s.draws), wire := [] }) with
    active := .slot k, draws := s.draws + 1 }

theorem State.attach_of_ok {s : State} {k : Nat} {p : Params} (hk : k < s.slots.length) (hfree : s.board k = none)
    (hp : p.ok) : s.attach k p = endStep s (.slot k) (.next (s.insertBoard k p)) := by
  refine if_neg ?_
  simp only [not_or, not_not, Nat.not_le]
  exact ⟨hk, by simp [State.present, State.params, hfree], hp⟩

/-- The slot of a board that is inserted: the board was reset, and drives its READY high. -/
theorem State.attach_free {s : State} {k : Nat} {sl : Slot} {p : Params} (hs : s.slots[k]? = some sl)
    (hfree : sl.board = none) (hp : p.ok) : s.attach k p = .next { s with
      slots := s.slots.set k { sl with
        board := some (resetExtension p sl.sel.level s.draws)
        ready := { sl.ready with inFlight := sl.ready.inFlight ++ [true] }
        wire := [] }
      active := .slot k
      draws := s.draws + 1 } := by
  obtain ⟨hk, -⟩ := List.getElem?_eq_some_iff.1 hs
  have slots : (s.insertBoard k p).slots = s.slots.set k { sl with
      board := some (resetExtension p sl.sel.level s.draws), wire := [] } := by
    simp only [State.insertBoard, State.mapSlot_eq_set _ hs]
  have stands : (s.insertBoard k p).slots[k]? = some { sl with
      board := some (resetExtension p sl.sel.level s.draws), wire := [] } := by
    rw [slots, List.getElem?_set_self hk]
  have same : s.SameBut (s.insertBoard k p) (.slot k) := (State.sameBut_mapSlot s k _).with_fields rfl rfl
  rw [State.attach_of_ok hk (by rw [State.board, hs, Option.bind_some, hfree]) hp, endStep_slot,
    State.transmit_of_reset_board (State.board_of_slot stands rfl), State.driveLines_of_slot same hs stands, slots,
    List.set_set, hfree]
  rfl

/-- No board is inserted in an occupied or missing slot, or with parameters out of range. -/
theorem State.attach_refused {s : State} {k : Nat} {p : Params}
    (h : s.slots[k]? = none ∨ (∃ e, s.board k = some e) ∨ ¬p.ok) : s.attach k p = .next s := by
  refine if_pos ?_
  rcases h with hs | ⟨e, he⟩ | hp
  · exact .inl (List.getElem?_eq_none_iff.1 hs)
  · exact .inr (.inl (State.present_of_board he))
  · exact .inr (.inr hp)

/-- The bus without the board in slot `k`, before its READY is released. -/
def State.removeBoard (s : State) (k : Nat) : State :=
  { (s.abandon (.slot k)).mapSlot k (fun sl => { sl with board := none, wire := [] }) with draws := s.draws + 1 }

theorem State.detach_of_present {s : State} {k : Nat} (h : s.present (.slot k) = true) :
    s.detach k = .next ((s.removeBoard k).driveLines s) := by
  simp only [State.detach, h, Bool.not_true, Bool.false_eq_true, if_false]
  rfl

/-- The slot of a board that is removed: its READY is driven low if it was not. -/
theorem State.detach_board {s : State} {k : Nat} {sl : Slot} {e : Extension} (hs : s.slots[k]? = some sl)
    (hb : sl.board = some e) : s.detach k = .next { s.abandon (.slot k) with
      slots := (s.abandon (.slot k)).slots.set k { sl with
        board := none
        ready := if e.readyOut then { sl.ready with inFlight := sl.ready.inFlight ++ [false] } else sl.ready
        wire := [] }
      draws := s.draws + 1 } := by
  have slots : (s.removeBoard k).slots = (s.abandon (.slot k)).slots.set k { sl with board := none, wire := [] } := by
    simp only [State.removeBoard, State.mapSlot_eq_set _ (s.abandon_slot _ hs)]
  have emptied : (s.removeBoard k).slots[k]? = some { sl with board := none, wire := [] } := by
    rw [slots, List.getElem?_set_self (State.lt_abandon_slots _ hs)]
  have same : s.SameBut (s.removeBoard k) (.slot k) :=
    (((s.sameCores_abandon _).but _).trans (State.sameBut_mapSlot _ k _)).with_fields rfl rfl
  rw [State.detach_of_present (State.present_of_board (State.board_of_slot hs hb)),
    State.driveLines_of_slot same hs emptied, slots, List.set_set, readyDriven_of_board hb]
  cases e.readyOut <;> rfl

/-- Without a board there is nothing to remove. -/
theorem State.detach_of_none {s : State} {k : Nat} (h : s.board k = none) : s.detach k = .next s :=
  if_pos (by simp [State.present, State.params, h])

/-! ### ResetValues -/

/-- Settles O54: the reset values are those of `Controller.reset` and `Extension.reset`, and each event is the
one change of a slot or of the Controller stated above. -/
theorem resetValues : Obligations.ResetValues := by
  refine ⟨?controllerValues, ?boardValues, fun s n => ⟨fun h => if_pos h, fun h => if_neg (by simp [h])⟩,
    ?resetBoard, ?resetController, fun s n k sl h => ⟨_, s.abandon_slot n h⟩, ?attach, ?detach⟩
  case controllerValues =>
    rintro p levels d c rfl
    have status := resetController_statusWord p levels d
    have event : RegEvent.word { kind := .none, slot := 0, id := 0 } = 0 := by decide
    have enable : 0#27 ++ 0#4 ++ 0#1 = (0 : Word) := by decide
    refine ⟨rfl, rfl, rfl, rfl, rfl, rfl, rfl, rfl, rfl, rfl, rfl, fun k hk _ => ?_, rfl, rfl, rfl, fun i => ?_, rfl,
      rfl, rfl, rfl, rfl, rfl, rfl, status, event, enable⟩
    · exact getLsbD_resetController_pending p levels d hk
    · exact Vector.getElem_replicate _
  case boardValues =>
    rintro p sel d e rfl
    exact ⟨rfl, rfl, rfl, rfl, rfl, rfl, rfl, rfl, rfl, rfl, rfl, rfl, rfl, rfl⟩
  case resetBoard =>
    intro s k e sl rest hin hs hb
    let taken : State := { s with inputs := rest }
    have frame := taken.resetDriven_slot_frame k
    have slots := State.resetDriven_slots (s := taken) hs hb
    rw [s.abandon_with_inputs] at frame slots
    refine ⟨taken.resetDriven (.slot k), (step_of_single hin).trans (State.resetNode_slot hs hb), frame, ?_,
      fun j hj => ?_⟩
    · rw [slots, List.getElem?_set_self (State.lt_abandon_slots _ hs)]
      rfl
    · rw [slots, List.getElem?_set_ne hj.symm]
  case resetController =>
    intro s rest hin
    let low := State.resetDriven { s with inputs := rest } .controller
    have hstep : step s = endStep low .controller (.next low) :=
      (step_of_single hin).trans (State.resetNode_of_present rfl)
    have frame := State.resetDriven_controller_frame { s with inputs := rest }
    have slots := State.resetDriven_controller_slot { s with inputs := rest }
    rw [s.abandon_with_inputs] at frame slots
    refine ⟨low, hstep, frame, slots, fun hnone => hstep.trans (State.endStep_resetDriven_of_low hnone),
      fun k hk hready hlow => hstep.trans (endStep_controller (State.arbitrate_resetDriven hk hready hlow))⟩
  case attach =>
    intro s k p rest hin
    refine ⟨fun sl hs hfree hp => (step_of_single hin).trans (State.attach_free hs hfree hp),
      fun h => (step_of_single hin).trans (State.attach_refused h)⟩
  case detach =>
    intro s k rest hin
    refine ⟨fun sl e hs hb => ?_, fun h => (step_of_single hin).trans (State.detach_of_none h)⟩
    have hstep := (step_of_single hin).trans (State.detach_board (s := { s with inputs := rest }) hs hb)
    rw [s.abandon_with_inputs] at hstep
    exact ⟨_, hstep, rfl, List.getElem?_set_self (State.lt_abandon_slots _ hs),
      fun j hj => List.getElem?_set_ne hj.symm⟩

end Sys2Proof.Machine
end
